-- ==== Sys2Proof/Word.lean ====
section
/-! DEFINITION. Word.lean: the word types of the block (00_scope.md R7, R10): bytes, 16-bit words, the 12-bit and 4-bit
fields of an instruction word, and register numbers. Every value is unsigned (R10). -/

namespace Sys2Proof

/-- An 8-bit value: a register, a memory byte, an immediate `kk` (R20, R82). -/
abbrev Byte := BitVec 8

/-- A 16-bit value: an instruction word, PC, I, a stack entry (R23, R25, R26, R80). -/
abbrev Word := BitVec 16

/-- The 12-bit address field NNN (R81). -/
abbrev Addr := BitVec 12

/-- The 4-bit count field N (R81). -/
abbrev Nibble := BitVec 4

/-- The number of a general register V0..VF (R20), or of a key (R33). -/
abbrev RegIndex := Fin 16

end Sys2Proof
end

