-- ==== Sys2Proof/Syntax.lean ====
section
/-! DEFINITION. Syntax.lean: the 33 instructions, one constructor per row of the opcode table (30_encoding.md R84), in the
table's order. Operands are the fields the row's pattern names (R81, R82). -/

namespace Sys2Proof

/-- An instruction of the block (R2, R84). -/
inductive Instr where
  /-- 00E0 CLS (R120). -/
  | cls
  /-- 00EE RET (R140). -/
  | ret
  /-- 1NNN JP addr (R141). -/
  | jp (nnn : Addr)
  /-- 2NNN CALL addr (R142). -/
  | call (nnn : Addr)
  /-- 3XNN SE Vx, byte (R143). -/
  | seByte (x : RegIndex) (kk : Byte)
  /-- 4XNN SNE Vx, byte (R144). -/
  | sneByte (x : RegIndex) (kk : Byte)
  /-- 5XY0 SE Vx, Vy (R145). -/
  | seReg (x y : RegIndex)
  /-- 6XNN LD Vx, byte (R162). -/
  | ldByte (x : RegIndex) (kk : Byte)
  /-- 7XNN ADD Vx, byte (R163). -/
  | addByte (x : RegIndex) (kk : Byte)
  /-- 8XY0 LD Vx, Vy (R164). -/
  | ldReg (x y : RegIndex)
  /-- 8XY1 OR Vx, Vy (R165). -/
  | orReg (x y : RegIndex)
  /-- 8XY2 AND Vx, Vy (R166). -/
  | andReg (x y : RegIndex)
  /-- 8XY3 XOR Vx, Vy (R167). -/
  | xorReg (x y : RegIndex)
  /-- 8XY4 ADD Vx, Vy (R168). -/
  | addReg (x y : RegIndex)
  /-- 8XY5 SUB Vx, Vy (R169). -/
  | subReg (x y : RegIndex)
  /-- 8XY6 SHR Vx (R170). The Y field is decoded and not used. -/
  | shr (x y : RegIndex)
  /-- 8XY7 SUBN Vx, Vy (R171). -/
  | subnReg (x y : RegIndex)
  /-- 8XYE SHL Vx (R172). The Y field is decoded and not used. -/
  | shl (x y : RegIndex)
  /-- 9XY0 SNE Vx, Vy (R146). -/
  | sneReg (x y : RegIndex)
  /-- ANNN LD I, addr (R190). -/
  | ldI (nnn : Addr)
  /-- CXNN RND Vx, byte (R211). -/
  | rnd (x : RegIndex) (kk : Byte)
  /-- DXYN DRW Vx, Vy, nibble (R121). -/
  | drw (x y : RegIndex) (n : Nibble)
  /-- EX9E SKP Vx (R215). -/
  | skp (x : RegIndex)
  /-- EXA1 SKNP Vx (R216). -/
  | sknp (x : RegIndex)
  /-- FX07 LD Vx, DT (R230). -/
  | ldVxDt (x : RegIndex)
  /-- FX0A LD Vx, K (R221). -/
  | ldVxK (x : RegIndex)
  /-- FX15 LD DT, Vx (R231). -/
  | ldDtVx (x : RegIndex)
  /-- FX18 LD ST, Vx (R232). -/
  | ldStVx (x : RegIndex)
  /-- FX1E ADD I, Vx (R191). -/
  | addI (x : RegIndex)
  /-- FX29 LD F, Vx (R192). -/
  | ldF (x : RegIndex)
  /-- FX33 LD B, Vx (R194). -/
  | ldB (x : RegIndex)
  /-- FX55 LD [I], Vx (R195). -/
  | ldMemVx (x : RegIndex)
  /-- FX65 LD Vx, [I] (R196). -/
  | ldVxMem (x : RegIndex)
  deriving DecidableEq, Repr

end Sys2Proof
end

