-- ==== Sys2Proof/WellFormed.lean ====
section
/-! DEFINITION. WellFormed.lean: an instruction is well-formed when each operand fits its field of the instruction word
(30_encoding.md R81, R82). The operand types are the fields' own widths, so an instruction out of range cannot be written
down and the check refuses none (Sys2Proof/Laws/Encoding.lean proves it). A WORD can be ill-formed: the check on words is
`Sys2Proof.wordImplemented` of Sys2Proof/Decode.lean. -/

namespace Sys2Proof

/-- Each operand fits its field: X and Y 4 bits, N 4 bits, NN 8 bits, NNN 12 bits (R81). -/
def Instr.wellFormed : Instr → Bool
  | .cls | .ret => true
  | .jp nnn | .call nnn | .ldI nnn => decide (nnn.toNat < 4096)
  | .seByte x kk | .sneByte x kk | .ldByte x kk | .addByte x kk | .rnd x kk =>
    decide (x.val < 16) && decide (kk.toNat < 256)
  | .seReg x y | .ldReg x y | .orReg x y | .andReg x y | .xorReg x y | .addReg x y | .subReg x y | .shr x y
  | .subnReg x y | .shl x y | .sneReg x y => decide (x.val < 16) && decide (y.val < 16)
  | .drw x y n => decide (x.val < 16) && decide (y.val < 16) && decide (n.toNat < 16)
  | .skp x | .sknp x | .ldVxDt x | .ldVxK x | .ldDtVx x | .ldStVx x | .addI x | .ldF x | .ldB x | .ldMemVx x
  | .ldVxMem x => decide (x.val < 16)

end Sys2Proof
end

