-- ==== Sys2Proof/Decode.lean ====
section
/-! DEFINITION. Decode.lean: the fields of an instruction word (30_encoding.md R81), the decoder (R83, R102), the opcode
map of mask and match (R84), and the encoder. The decoder follows R83's dispatch and the map is R84's table: two readings
of the same encoding, which a statement says agree. -/

namespace Sys2Proof

/-! ## Fields (R81) -/

/-- The op class, `w[15:12]`. -/
def classField (w : Word) : Nat := (w.extractLsb' 12 4).toNat

/-- The X field, `w[11:8]`. -/
def xField (w : Word) : RegIndex := (w.extractLsb' 8 4).toFin

/-- The Y field, `w[7:4]`. -/
def yField (w : Word) : RegIndex := (w.extractLsb' 4 4).toFin

/-- The N field, `w[3:0]`. -/
def nField (w : Word) : Nibble := w.extractLsb' 0 4

/-- The NN field, `w[7:0]`. -/
def nnField (w : Word) : Byte := w.extractLsb' 0 8

/-- The NNN field, `w[11:0]`. -/
def nnnField (w : Word) : Addr := w.extractLsb' 0 12

/-- The word of two consecutive bytes, the byte at the lower address high (R67, R80). -/
def wordOfBytes (high low : Byte) : Word := high ++ low

/-- The high byte of a word, the one stored at the lower address (R67). -/
def highByte (w : Word) : Byte := w.extractLsb' 8 8

/-- The low byte of a word, the one stored at the higher address (R67). -/
def lowByte (w : Word) : Byte := w.extractLsb' 0 8

/-! ## Decoding (R83, R102) -/

/-- What decoding a word gives (R100): an instruction, or, by name, an unimplemented opcode (R86). -/
inductive Decoded where
  /-- The word is this instruction. -/
  | instr (i : Instr)
  /-- The word matches no row of the opcode map (R86): a step treats it as a no-op with a diagnostic (R104). -/
  | unimplemented (w : Word)
  deriving DecidableEq, Repr

/-- Class 0: the whole word must be 0x00E0 or 0x00EE (R83, R88). -/
def decodeClass0 (w : Word) : Option Instr :=
  if w = 0x00E0#16 then some .cls
  else if w = 0x00EE#16 then some .ret
  else none

/-- Class 8: N selects (R83). -/
def decodeClass8 (w : Word) : Option Instr :=
  match (nField w).toNat with
  | 0x0 => some (.ldReg (xField w) (yField w))
  | 0x1 => some (.orReg (xField w) (yField w))
  | 0x2 => some (.andReg (xField w) (yField w))
  | 0x3 => some (.xorReg (xField w) (yField w))
  | 0x4 => some (.addReg (xField w) (yField w))
  | 0x5 => some (.subReg (xField w) (yField w))
  | 0x6 => some (.shr (xField w) (yField w))
  | 0x7 => some (.subnReg (xField w) (yField w))
  | 0xE => some (.shl (xField w) (yField w))
  | _ => none

/-- Class E: NN selects (R83). -/
def decodeClassE (w : Word) : Option Instr :=
  match (nnField w).toNat with
  | 0x9E => some (.skp (xField w))
  | 0xA1 => some (.sknp (xField w))
  | _ => none

/-- Class F: NN selects (R83). -/
def decodeClassF (w : Word) : Option Instr :=
  match (nnField w).toNat with
  | 0x07 => some (.ldVxDt (xField w))
  | 0x0A => some (.ldVxK (xField w))
  | 0x15 => some (.ldDtVx (xField w))
  | 0x18 => some (.ldStVx (xField w))
  | 0x1E => some (.addI (xField w))
  | 0x29 => some (.ldF (xField w))
  | 0x33 => some (.ldB (xField w))
  | 0x55 => some (.ldMemVx (xField w))
  | 0x65 => some (.ldVxMem (xField w))
  | _ => none

/-- The dispatch of R83 on the op class. Class B holds no instruction (R87). -/
def decodeInstr (w : Word) : Option Instr :=
  match classField w with
  | 0x0 => decodeClass0 w
  | 0x1 => some (.jp (nnnField w))
  | 0x2 => some (.call (nnnField w))
  | 0x3 => some (.seByte (xField w) (nnField w))
  | 0x4 => some (.sneByte (xField w) (nnField w))
  | 0x5 => if nField w = 0 then some (.seReg (xField w) (yField w)) else none
  | 0x6 => some (.ldByte (xField w) (nnField w))
  | 0x7 => some (.addByte (xField w) (nnField w))
  | 0x8 => decodeClass8 w
  | 0x9 => if nField w = 0 then some (.sneReg (xField w) (yField w)) else none
  | 0xA => some (.ldI (nnnField w))
  | 0xB => none
  | 0xC => some (.rnd (xField w) (nnField w))
  | 0xD => some (.drw (xField w) (yField w) (nField w))
  | 0xE => decodeClassE w
  | 0xF => decodeClassF w
  | _ => none

/-- Decode one word (R102): it reads no state and changes none. -/
def decode (w : Word) : Decoded :=
  match decodeInstr w with
  | some i => .instr i
  | none => .unimplemented w

/-- What decoding the head of a byte sequence gives: every instruction is two bytes (R80). -/
inductive DecodedBytes where
  /-- Two bytes were there: what their word decodes to, and the bytes after it. -/
  | word (d : Decoded) (rest : List Byte)
  /-- Fewer than two bytes were there. -/
  | tooShort (bytes : List Byte)
  deriving DecidableEq, Repr

/-- Decode the head of any byte sequence, first byte high (R80). -/
def decodeBytes : List Byte → DecodedBytes
  | high :: low :: rest => .word (decode (wordOfBytes high low)) rest
  | short => .tooShort short

/-! ## The opcode map (R84) -/

/-- A row of the opcode map: a word selects it when `(w and mask) = pattern` (R84; the spec's column "match"). -/
structure OpcodeRow where
  /-- The bits the row fixes. -/
  mask    : Word
  /-- Their values. -/
  pattern : Word
  deriving DecidableEq, Repr

/-- The 33 rows of R84 in the table's order. -/
def opcodeTable : Vector OpcodeRow 33 :=
  #v[⟨0xFFFF, 0x00E0⟩, ⟨0xFFFF, 0x00EE⟩, ⟨0xF000, 0x1000⟩, ⟨0xF000, 0x2000⟩, ⟨0xF000, 0x3000⟩, ⟨0xF000, 0x4000⟩,
     ⟨0xF00F, 0x5000⟩, ⟨0xF000, 0x6000⟩, ⟨0xF000, 0x7000⟩, ⟨0xF00F, 0x8000⟩, ⟨0xF00F, 0x8001⟩, ⟨0xF00F, 0x8002⟩,
     ⟨0xF00F, 0x8003⟩, ⟨0xF00F, 0x8004⟩, ⟨0xF00F, 0x8005⟩, ⟨0xF00F, 0x8006⟩, ⟨0xF00F, 0x8007⟩, ⟨0xF00F, 0x800E⟩,
     ⟨0xF00F, 0x9000⟩, ⟨0xF000, 0xA000⟩, ⟨0xF000, 0xC000⟩, ⟨0xF000, 0xD000⟩, ⟨0xF0FF, 0xE09E⟩, ⟨0xF0FF, 0xE0A1⟩,
     ⟨0xF0FF, 0xF007⟩, ⟨0xF0FF, 0xF00A⟩, ⟨0xF0FF, 0xF015⟩, ⟨0xF0FF, 0xF018⟩, ⟨0xF0FF, 0xF01E⟩, ⟨0xF0FF, 0xF029⟩,
     ⟨0xF0FF, 0xF033⟩, ⟨0xF0FF, 0xF055⟩, ⟨0xF0FF, 0xF065⟩]

/-- The word selects the row (R84). -/
def OpcodeRow.selects (r : OpcodeRow) (w : Word) : Bool := w &&& r.mask == r.pattern

/-- The word is the word of some instruction: some row of the map selects it (R84, R86). This is the check a program's
word can fail. -/
def wordImplemented (w : Word) : Bool := opcodeTable.toList.any (·.selects w)

/-- The place of an instruction's row in the map of R84, counted from 0. -/
def Instr.rowIndex : Instr → Fin 33
  | .cls => 0
  | .ret => 1
  | .jp _ => 2
  | .call _ => 3
  | .seByte _ _ => 4
  | .sneByte _ _ => 5
  | .seReg _ _ => 6
  | .ldByte _ _ => 7
  | .addByte _ _ => 8
  | .ldReg _ _ => 9
  | .orReg _ _ => 10
  | .andReg _ _ => 11
  | .xorReg _ _ => 12
  | .addReg _ _ => 13
  | .subReg _ _ => 14
  | .shr _ _ => 15
  | .subnReg _ _ => 16
  | .shl _ _ => 17
  | .sneReg _ _ => 18
  | .ldI _ => 19
  | .rnd _ _ => 20
  | .drw _ _ _ => 21
  | .skp _ => 22
  | .sknp _ => 23
  | .ldVxDt _ => 24
  | .ldVxK _ => 25
  | .ldDtVx _ => 26
  | .ldStVx _ => 27
  | .addI _ => 28
  | .ldF _ => 29
  | .ldB _ => 30
  | .ldMemVx _ => 31
  | .ldVxMem _ => 32

/-- An instruction's row of the opcode map (R84). -/
def Instr.row (i : Instr) : OpcodeRow := opcodeTable[i.rowIndex]

/-! ## Encoding (the bit strings of R84) -/

/-- A register number as the 4 bits of an X or Y field. -/
def regBits (x : RegIndex) : Nibble := BitVec.ofFin (w := 4) x

/-- The word `c X NN`. -/
def encodeXNN (c : Nibble) (x : RegIndex) (kk : Byte) : Word := c ++ regBits x ++ kk

/-- The word `c X Y N`. -/
def encodeXYN (c : Nibble) (x y : RegIndex) (n : Nibble) : Word := c ++ regBits x ++ regBits y ++ n

/-- The word `c NNN`. -/
def encodeNNN (c : Nibble) (nnn : Addr) : Word := c ++ nnn

/-- The instruction's word (R84, column "encoding"). -/
def encode : Instr → Word
  | .cls => 0x00E0
  | .ret => 0x00EE
  | .jp nnn => encodeNNN 0x1 nnn
  | .call nnn => encodeNNN 0x2 nnn
  | .seByte x kk => encodeXNN 0x3 x kk
  | .sneByte x kk => encodeXNN 0x4 x kk
  | .seReg x y => encodeXYN 0x5 x y 0x0
  | .ldByte x kk => encodeXNN 0x6 x kk
  | .addByte x kk => encodeXNN 0x7 x kk
  | .ldReg x y => encodeXYN 0x8 x y 0x0
  | .orReg x y => encodeXYN 0x8 x y 0x1
  | .andReg x y => encodeXYN 0x8 x y 0x2
  | .xorReg x y => encodeXYN 0x8 x y 0x3
  | .addReg x y => encodeXYN 0x8 x y 0x4
  | .subReg x y => encodeXYN 0x8 x y 0x5
  | .shr x y => encodeXYN 0x8 x y 0x6
  | .subnReg x y => encodeXYN 0x8 x y 0x7
  | .shl x y => encodeXYN 0x8 x y 0xE
  | .sneReg x y => encodeXYN 0x9 x y 0x0
  | .ldI nnn => encodeNNN 0xA nnn
  | .rnd x kk => encodeXNN 0xC x kk
  | .drw x y n => encodeXYN 0xD x y n
  | .skp x => encodeXNN 0xE x 0x9E
  | .sknp x => encodeXNN 0xE x 0xA1
  | .ldVxDt x => encodeXNN 0xF x 0x07
  | .ldVxK x => encodeXNN 0xF x 0x0A
  | .ldDtVx x => encodeXNN 0xF x 0x15
  | .ldStVx x => encodeXNN 0xF x 0x18
  | .addI x => encodeXNN 0xF x 0x1E
  | .ldF x => encodeXNN 0xF x 0x29
  | .ldB x => encodeXNN 0xF x 0x33
  | .ldMemVx x => encodeXNN 0xF x 0x55
  | .ldVxMem x => encodeXNN 0xF x 0x65

/-- The instruction's two bytes, the high byte first (R67, R80). -/
def encodeBytes (i : Instr) : List Byte := [highByte (encode i), lowByte (encode i)]

/-! ## The host's numbering of the opcode table -/

/-- The word whose bits are `w`, of which the table gives `nbits`; every bit above them is 0. -/
def tableWord (nbits w : Nat) : Word := BitVec.ofNat 16 (w % 2 ^ nbits)

/-- The instruction the decoder reads from the word of a table row, laid out as the block stores it: high byte first. -/
def decodeTableWord (nbits w : Nat) : Option Instr :=
  match decodeBytes [highByte (tableWord nbits w), lowByte (tableWord nbits w)] with
  | .word (.instr i) _ => some i
  | .word (.unimplemented _) _ => none
  | .tooShort _ => none

end Sys2Proof
end

