-- ==== Sys2Proof/Machine/Flags.lean ====
section
/-! DEFINITION. Machine/Flags.lean: the 8-bit results of the ALU and the flag each writes to VF (43_alu.md R160-R173), and
the collision flag (41_display.md R123). Each is computed exactly on naturals and narrowed at the end (R11). -/

namespace Sys2Proof.Machine

/-- `(vx + vy) mod 256` (R163, R168). -/
def sum8 (a b : Byte) : Byte := BitVec.ofNat 8 (a.toNat + b.toNat)

/-- `(a + 256 - b) mod 256` (R160, R169, R171). -/
def diff8 (a b : Byte) : Byte := BitVec.ofNat 8 (a.toNat + 256 - b.toNat)

/-- `v >> 1` (R170). -/
def half8 (a : Byte) : Byte := BitVec.ofNat 8 (a.toNat / 2)

/-- `(v << 1) mod 256` (R172). -/
def double8 (a : Byte) : Byte := BitVec.ofNat 8 (a.toNat * 2)

/-- A flag value: 1 or 0. -/
def flagByte (b : Bool) : Byte := if b then 1 else 0

/-- Carry: 1 if the sum passes 255 (R168). -/
def carryFlag (a b : Byte) : Byte := flagByte (decide (a.toNat + b.toNat > 255))

/-- Not-borrow of `a - b`: 1 if `a >= b` (R169, R171). -/
def noBorrowFlag (a b : Byte) : Byte := flagByte (decide (a.toNat ≥ b.toNat))

/-- The bit a right shift drops: `v and 1` (R170). -/
def lowBitFlag (a : Byte) : Byte := BitVec.ofNat 8 (a.toNat % 2)

/-- The bit a left shift drops: `(v >> 7) and 1` (R172). -/
def highBitFlag (a : Byte) : Byte := BitVec.ofNat 8 (a.toNat / 128 % 2)

/-- The collision flag (R123): 1 if any pixel collided. -/
def collisionFlag (collided : Bool) : Byte := flagByte collided

end Sys2Proof.Machine
end

