-- ==== Sys2Proof/Config.lean ====
section
/-! DEFINITION. Config.lean: what is fixed for a machine while it runs: the parameters the document fixes (00_scope.md R7),
the type of those it names but leaves to the implementation (R8, R9), and the one free value, the random source. -/

namespace Sys2Proof.Config

/-- MEM_SIZE (R7): bytes of memory. -/
def memSize : Nat := 4096

/-- The last address, 0xFFF (R7, R60). -/
def lastAddr : Nat := 0xFFF

/-- PROG_BASE (R7): where program bytes are loaded, and the PC at reset. -/
def progBase : Nat := 0x200

/-- PROG_MAX (R7): the largest program, 4096 - 0x200 bytes. -/
def progMax : Nat := 3584

/-- GLYPH_BYTES (R7): bytes of one font glyph. -/
def glyphBytes : Nat := 5

/-- SPRITE_EDGE (R8, R122): what a sprite pixel past the right or bottom edge does. -/
inductive SpriteEdge where
  /-- A pixel past the edge is dropped: this hardware's value (D2). -/
  | clip
  /-- A pixel past the edge wraps round: the alternative the spec defines in full. -/
  | wrap
  deriving DecidableEq, Repr

/-- The parameters a model takes as arguments (R8, R9, R31, R122; U2, U4, U20): no operation of the block changes them.
The values this hardware takes are `Sys2Proof.Machine.paramsReset`. -/
structure Params where
  /-- FONT_BASE, an address of the memory. -/
  fontBase   : Addr
  /-- FONT_DATA, 16 glyphs of 5 bytes. -/
  fontData   : Vector Byte 80
  /-- SPRITE_EDGE. -/
  spriteEdge : SpriteEdge
  /-- RNG: which stream of the random source this instance was given at construction (its seed, in fixed-seed mode). -/
  rngSeed    : Nat
  deriving DecidableEq, Repr

/-- FREE VALUE (R9, R210; U3, D15; log entry 4): draw number `n` of the random source named `seed`. It has no body, so
nothing is known of it, and a claim that mentions it holds for every random source. -/
opaque randomByte (seed n : Nat) : Byte

end Sys2Proof.Config
end

