-- ==== Sys2Proof/Machine/Operands.lean ====
section
/-! DEFINITION. Machine/Operands.lean: operand values, computed from fields and register values: zero extension
(30_encoding.md R82), key codes (46_input.md R217), BCD digits (R194), the font address (R192), and where a sprite's
pixels land (41_display.md R121, R122). -/

namespace Sys2Proof.Machine

open Sys2Proof.Config (SpriteEdge)

/-- `zext_16(nnn)` (R82). -/
def zextAddr (nnn : Addr) : Word := nnn.setWidth 16

/-- `zext_16(v)` of a byte (R82). -/
def zextByte (b : Byte) : Word := b.setWidth 16

/-- The key a register's value names, if it is a key code, 0 to 15 (R217). -/
def keyOfByte (b : Byte) : Option RegIndex :=
  if h : b.toNat < 16 then some ⟨b.toNat, h⟩ else none

/-- A key code as the byte FX0A writes (R221). -/
def byteOfKey (k : RegIndex) : Byte := BitVec.ofNat 8 k.val

/-- `vx div 100`, `(vx div 10) mod 10`, `vx mod 10` (R194). -/
def bcdDigits (b : Byte) : List Byte :=
  [BitVec.ofNat 8 (b.toNat / 100), BitVec.ofNat 8 (b.toNat / 10 % 10), BitVec.ofNat 8 (b.toNat % 10)]

/-- `FONT_BASE + 5 * vx`, the whole of vx (R192). It never passes 16 bits, since FONT_BASE has 12. -/
def glyphAddr (fontBase : Addr) (b : Byte) : Word :=
  BitVec.ofNat 16 (fontBase.toNat + Config.glyphBytes * b.toNat)

/-- A cell of the display: its column and its row (R32). -/
abbrev CellPos := Fin 64 × Fin 32

/-- Where a sprite drawn at V[x], V[y] starts: the coordinates modulo width and height (R121). -/
def spriteOrigin (vx vy : Byte) : Nat × Nat := (vx.toNat % 64, vy.toNat % 32)

/-- Pixel `c` of a sprite row, 0 leftmost: bit `7 - c` of its byte (R121). -/
def spriteBit (row : Byte) (c : Nat) : Bool := row.getLsbD (7 - c)

/-- `target` (R122): the cell a pixel at column `px`, row `py` lands on, if any. -/
def spriteTarget (edge : SpriteEdge) (px py : Nat) : Option CellPos :=
  match edge with
  | .clip => if h : px < 64 ∧ py < 32 then some (⟨px, h.1⟩, ⟨py, h.2⟩) else none
  | .wrap => some (⟨px % 64, Nat.mod_lt _ (by decide)⟩, ⟨py % 32, Nat.mod_lt _ (by decide)⟩)

/-- The cells the pixels of value 1 of one sprite row land on, left to right (R121). -/
def litRow (edge : SpriteEdge) (px py : Nat) (row : Byte) : List CellPos :=
  (List.range 8).filterMap fun c => if spriteBit row c then spriteTarget edge (px + c) py else none

/-- The cells the pixels of value 1 of a sprite land on, row by row (R121). -/
def litCells (edge : SpriteEdge) (px py : Nat) : List Byte → List CellPos
  | [] => []
  | row :: rows => litRow edge px py row ++ litCells edge px (py + 1) rows

end Sys2Proof.Machine
end

