-- ==== Sys2Proof/Machine/Params.lean ====
section
/-! DEFINITION. Machine/Params.lean: the values this hardware gives the parameters (00_scope.md R8), and what a byte of
memory holds at reset under any parameters (10_state.md R31, R39). -/

namespace Sys2Proof.Machine

open Sys2Proof.Config (Params)

/-- FONT_DATA's default: the 80 bytes of R31, glyphs 0 to F (general knowledge, the spec says; G1, log entry 3). -/
def fontDataReset : Vector Byte 80 :=
  #v[0xF0, 0x90, 0x90, 0x90, 0xF0,  0x20, 0x60, 0x20, 0x20, 0x70,
     0xF0, 0x10, 0xF0, 0x80, 0xF0,  0xF0, 0x10, 0xF0, 0x10, 0xF0,
     0x90, 0x90, 0xF0, 0x10, 0x10,  0xF0, 0x80, 0xF0, 0x10, 0xF0,
     0xF0, 0x80, 0xF0, 0x90, 0xF0,  0xF0, 0x10, 0x20, 0x40, 0x40,
     0xF0, 0x90, 0xF0, 0x90, 0xF0,  0xF0, 0x90, 0xF0, 0x10, 0xF0,
     0xF0, 0x90, 0xF0, 0x90, 0x90,  0xE0, 0x90, 0xE0, 0x90, 0xE0,
     0xF0, 0x80, 0x80, 0x80, 0xF0,  0xE0, 0x90, 0x90, 0x90, 0xE0,
     0xF0, 0x80, 0xF0, 0x80, 0xF0,  0xF0, 0x80, 0xF0, 0x80, 0x80]

/-- The parameters of this hardware: FONT_BASE = 0x050 (D11), the font of R31, SPRITE_EDGE = clip (D2). The seed is a
DESIGN CHOICE: the random source is free whatever it is (log entry 4). -/
def paramsReset : Params :=
  { fontBase := 0x050, fontData := fontDataReset, spriteEdge := .clip, rngSeed := 0 }

/-- `MEM[a]` after reset (R39): FONT_DATA at FONT_BASE .. FONT_BASE + 79, 0 at every other address (D10). It is also what
an address the memory's list does not name reads as. -/
def resetByte (p : Params) (a : Nat) : Byte :=
  if h : p.fontBase.toNat ≤ a ∧ a < p.fontBase.toNat + 80 ∧ a ≤ Config.lastAddr then
    p.fontData[a - p.fontBase.toNat]
  else 0

end Sys2Proof.Machine
end

