-- ==== Sys2Proof/Machine/State.lean ====
section
/-! DEFINITION. Machine/State.lean: the state of the block as plain data (10_state.md), the reasons a step can stop, and
the state after reset (R39, R280). -/

namespace Sys2Proof.Machine

/-- The fault kinds of R240. The spec describes the entry of every one of them (R241, R282), so each is TAKEN, as a next
state with FAULT set and PHASE changed; no step ends as `Host.Outcome.fault` with one of them. That is exact, so it is
neither safe nor unsafe (log entry 1). -/
inductive Fault where
  /-- Code 1. Raised by `load_program` on a program longer than 3584 bytes (R282), never by a step. Exact. -/
  | loadError
  /-- Code 2. Raised by CALL with SP = 16 (R142). Exact. -/
  | stackOverflow
  /-- Code 3. Raised by RET with SP = 0 (R140). Exact. -/
  | stackUnderflow
  /-- Code 4. Raised by a fetch, DRW, LD B, LD [I] and LD Vx,[I] whose range passes 0xFFF (R65). Exact. -/
  | memoryOutOfBounds
  /-- Code 5. Raised by SKP and SKNP with V[x] >= 16 (R217). Exact. -/
  | keyOutOfRange
  deriving DecidableEq, Repr

/-- The reasons the model declines to give a step. No instruction of this model is declined. -/
inductive Refusal where
  /-- An instruction without a meaning yet, by its mnemonic. Only an arm of `exec` may answer it, and none does. Safe. -/
  | notModelled (mnemonic : String)
  deriving DecidableEq, Repr

/-- The fault record (R35). -/
structure FaultRecord where
  /-- The fault's kind (R240). -/
  kind     : Fault
  /-- The faulting instruction's address; the PC of a failed fetch; 0x200 for LoadError. -/
  instAddr : Word
  /-- The instruction word, or none for a fetch fault and for LoadError. -/
  word     : Option Word
  /-- The offending address, value, SP or length. -/
  info     : Nat
  deriving DecidableEq, Repr

/-- The lifecycle phase (R36). -/
inductive Phase where
  /-- Constructed, font written, no program loaded. -/
  | ready
  /-- A load succeeded and no fault has been raised. -/
  | running
  /-- A fault was raised during a step. -/
  | halted
  /-- `load_program` raised LoadError. -/
  | loadFailed
  deriving DecidableEq, Repr

/-- A diagnostic event `diag(UnimplementedOpcode, addr, word)` (R246). -/
structure DiagEvent where
  /-- The instruction's address. -/
  addr : Word
  /-- Its 16-bit word. -/
  word : Word
  deriving DecidableEq, Repr

/-- Memory: the addresses whose byte differs from its reset value, rising (R60, R61; `Memory.wf` says the form). -/
abbrev Memory := List Host.Cell

/-- The display: 32 rows of 64 cells, `true` on (R32). -/
abbrev Display := Vector (Vector Bool 64) 32

/-- The input vector: 16 keys, `true` pressed (R33). -/
abbrev Keys := Vector Bool 16

/-- Everything the spec gives the block to hold (R39), the two output streams (R54), and the model's own `rngDraws` and
`params` (log entries 3 to 5). -/
structure State where
  /-- V0..VF (R20). -/
  v        : Vector Byte 16
  /-- The program counter (R23). -/
  pc       : Word
  /-- The index register I (R25). -/
  i        : Word
  /-- The stack pointer SP, the number of entries in use, 0..16 (R26). -/
  sp       : Fin 17
  /-- STACK[0..15] (R26). -/
  stack    : Vector Word 16
  /-- The delay timer (R28). -/
  dt       : Byte
  /-- The sound timer (R29). -/
  st       : Byte
  /-- MEM (R31, R60). -/
  mem      : Memory
  /-- DISP (R32). -/
  disp     : Display
  /-- KEY (R33). -/
  key      : Keys
  /-- WAIT: `some x` is blocked-on-key for V[x] (R34). -/
  wait     : Option RegIndex
  /-- FAULT (R35). -/
  fault    : Option FaultRecord
  /-- PHASE (R36). -/
  phase    : Phase
  /-- The `diag` output stream, oldest event first (R54, R246). -/
  diagOut  : List DiagEvent
  /-- The `tone` output stream, oldest event first; `true` is tone(on) (R54, R55). -/
  toneOut  : List Bool
  /-- The model's own: how many bytes the random source has given (R210; log entry 4). -/
  rngDraws : Nat
  /-- The model's own: the parameters, which no operation changes (R8, R9; log entry 3). -/
  params   : Config.Params
  deriving DecidableEq, Repr

/-- The state right after reset, before any program load (R39, R280), under this hardware's parameters. -/
def State.reset : State :=
  { v := Vector.replicate 16 0
    pc := 0x200
    i := 0
    sp := 0
    stack := Vector.replicate 16 0
    dt := 0
    st := 0
    mem := []
    disp := Vector.replicate 32 (Vector.replicate 64 false)
    key := Vector.replicate 16 false
    wait := none
    fault := none
    phase := .ready
    diagOut := []
    toneOut := []
    rngDraws := 0
    params := paramsReset }

end Sys2Proof.Machine
end

