-- ==== Sys2Proof/Machine/Ops.lean ====
section
/-! DEFINITION. Machine/Ops.lean: the named operations over memory, registers, stack, display, input and timers that the
meanings share, and the entry of a fault (60_exceptions.md R241), written once. -/

namespace Sys2Proof.Machine

open Sys2Proof.Config (Params)

/-! ## Memory (20_memory.md R60-R65) -/

/-- The byte the list gives an address, if it names it. -/
def Memory.lookup : Memory → Nat → Option Byte
  | [], _ => none
  | c :: m, a => if c.1 = a then some c.2 else Memory.lookup m a

/-- `MEM[a]` (R63): the listed byte, or the reset value. -/
def Memory.read (p : Params) (m : Memory) (a : Nat) : Byte := (Memory.lookup m a).getD (resetByte p a)

/-- The list with the cell `(a, b)` in its place, replacing any cell at `a`. -/
def Memory.put (a : Nat) (b : Byte) : Memory → Memory
  | [] => [(a, b)]
  | c :: m =>
    if a < c.1 then (a, b) :: c :: m
    else if a = c.1 then (a, b) :: m
    else c :: Memory.put a b m

/-- The list without the cell at `a`. -/
def Memory.drop (a : Nat) : Memory → Memory
  | [] => []
  | c :: m => if c.1 = a then m else c :: Memory.drop a m

/-- `MEM[a] <- b` (R64), in the canonical form. An address past 0xFFF holds no byte; every caller has checked its range
first (R65). -/
def Memory.write (p : Params) (m : Memory) (a : Nat) (b : Byte) : Memory :=
  if a > Config.lastAddr then m
  else if b = resetByte p a then Memory.drop a m
  else Memory.put a b m

/-- Consecutive bytes stored from `a` upward, the lowest address first (R67, R68). -/
def Memory.writeBytes (p : Params) (m : Memory) (a : Nat) : List Byte → Memory
  | [] => m
  | b :: bs => Memory.writeBytes p (Memory.write p m a b) (a + 1) bs

/-- The canonical form: addresses strictly rising, none past 0xFFF, no cell that holds its reset value. -/
abbrev Memory.wf (p : Params) (m : Memory) : Prop :=
  m.Pairwise (fun c d => c.1 < d.1) ∧ ∀ c ∈ m, c.1 ≤ Config.lastAddr ∧ c.2 ≠ resetByte p c.1

/-- The check of R65 on the bytes `base .. base + len - 1`, without wrap: the first offending address, if there is one.
R63 and R64 check `len = 1`. An empty range is never out of bounds (R121, n = 0). -/
def checkRange (base len : Nat) : Option Nat :=
  if 1 ≤ len ∧ base + len - 1 > Config.lastAddr then some (max base Config.memSize) else none

/-- `MEM[a]`. -/
def State.byteAt (s : State) (a : Nat) : Byte := Memory.read s.params s.mem a

/-- The bytes `MEM[a .. a + len - 1]`, the lowest address first (R68). -/
def State.readBytes (s : State) (a len : Nat) : List Byte := (List.range len).map fun k => s.byteAt (a + k)

/-! ## Single fields -/

/-- Replace the register file. -/
def State.setRegs (vs : Vector Byte 16) (s : State) : State := { s with v := vs }

/-- `pc <- target` (R12). -/
def State.setPc (a : Word) (s : State) : State := { s with pc := a }

/-- `I <- v` (R12). -/
def State.setI (a : Word) (s : State) : State := { s with i := a }

/-- `SP <- n`. -/
def State.setSp (n : Fin 17) (s : State) : State := { s with sp := n }

/-- Replace the stack's entries. -/
def State.setStack (vs : Vector Word 16) (s : State) : State := { s with stack := vs }

/-- `DT <- v`. -/
def State.setDt (b : Byte) (s : State) : State := { s with dt := b }

/-- `ST <- v`, without the audio notification. -/
def State.setSt (b : Byte) (s : State) : State := { s with st := b }

/-- Replace the memory. -/
def State.setMem (m : Memory) (s : State) : State := { s with mem := m }

/-- Replace the display. -/
def State.setDisp (d : Display) (s : State) : State := { s with disp := d }

/-- `KEY <- vector`. -/
def State.setKey (k : Keys) (s : State) : State := { s with key := k }

/-- `WAIT <- w`. -/
def State.setWait (w : Option RegIndex) (s : State) : State := { s with wait := w }

/-- `FAULT <- r`. -/
def State.setFault (r : Option FaultRecord) (s : State) : State := { s with fault := r }

/-- `PHASE <- p`. -/
def State.setPhase (p : Phase) (s : State) : State := { s with phase := p }

/-- Append one event to the `diag` output stream (R246). -/
def State.emitDiag (e : DiagEvent) (s : State) : State := { s with diagOut := s.diagOut ++ [e] }

/-- Append one event to the `tone` output stream (R55). -/
def State.emitTone (on : Bool) (s : State) : State := { s with toneOut := s.toneOut ++ [on] }

/-- Count one byte taken from the random source (R210). -/
def State.countDraw (s : State) : State := { s with rngDraws := s.rngDraws + 1 }

/-! ## Registers (10_state.md R20, R21) -/

/-- `V[x]`. -/
def State.reg (s : State) (x : RegIndex) : Byte := s.v[x]

/-- `V[x] <- b`. -/
def State.setReg (x : RegIndex) (b : Byte) (s : State) : State := s.setRegs (s.v.set x b)

/-- FLAG_REG: VF (R7, R21). -/
abbrev flagReg : RegIndex := 15

/-- `VF <- b` as a flag (R21). -/
def State.setFlag (b : Byte) (s : State) : State := s.setReg flagReg b

/-- The data result to V[x] first, the flag to VF last, so that the flag is what VF keeps when x = F (R161). -/
def State.setRegFlag (x : RegIndex) (data flag : Byte) (s : State) : State := (s.setReg x data).setFlag flag

/-- `V[i] <- MEM[base + i]` for i = 0..x; the registers above x keep their values (R196). -/
def State.loadRegs (x : RegIndex) (base : Nat) (s : State) : State :=
  s.setRegs (Vector.ofFn fun j => if j ≤ x then s.byteAt (base + j.val) else s.reg j)

/-- V[0] .. V[x], in order (R195). -/
def State.regsUpTo (s : State) (x : RegIndex) : List Byte := s.v.toList.take (x.val + 1)

/-- Store consecutive bytes from address `a` upward (R64, R68). -/
def State.storeBytes (a : Nat) (bs : List Byte) (s : State) : State :=
  s.setMem (Memory.writeBytes s.params s.mem a bs)

/-! ## Program counter and stack (R23, R27, R105) -/

/-- `PC <- PC + 2`: the advance of a fetch (R101) and of a skip (R105). -/
def State.advance (s : State) : State := s.setPc (s.pc + 2)

/-- A skip: advance once more if the condition holds (R105). -/
def State.skipIf (c : Bool) (s : State) : State := if c then s.advance else s

/-- `push(v)` (R27): none if SP = 16. -/
def State.push (a : Word) (s : State) : Option State :=
  if h : s.sp.val < 16 then some ((s.setStack (s.stack.set s.sp.val a)).setSp ⟨s.sp.val + 1, by omega⟩) else none

/-- `pop()` (R27): the popped value and the state with SP lowered; none if SP = 0. The entry is not cleared. -/
def State.pop (s : State) : Option (Word × State) :=
  if h : 0 < s.sp.val then some (s.stack[s.sp.val - 1], s.setSp ⟨s.sp.val - 1, by omega⟩) else none

/-! ## Entry of a fault (R241) -/

/-- The numeric codes of R240 (labels only, D30). -/
def faultCode : Fault → Nat
  | .loadError => 1
  | .stackOverflow => 2
  | .stackUnderflow => 3
  | .memoryOutOfBounds => 4
  | .keyOutOfRange => 5

/-- Fault entry (R241): PC is the faulting instruction's address `a`, FAULT the record, PHASE halted, and nothing else of
the state changes. -/
def State.enterFault (a : Word) (w : Option Word) (k : Fault) (info : Nat) (s : State) : State :=
  ((s.setPc a).setFault (some ⟨k, a, w, info⟩)).setPhase .halted

/-- `raise F(info)` in the execute phase of the instruction `i` (R106, R241). At that point PC holds the instruction's
address plus 2 (R101, R103), and no other change of the step has been made, so there is nothing else to discard. -/
def State.raise (i : Instr) (k : Fault) (info : Nat) (s : State) : Host.Outcome State Fault Refusal :=
  .next (s.enterFault (s.pc - 2) (some (encode i)) k info)

/-- The range check of an instruction's accesses, before any effect (R65): raise MemoryOutOfBounds, or go on. -/
def State.inRange (i : Instr) (base len : Nat) (s : State) (goOn : State) : Host.Outcome State Fault Refusal :=
  match checkRange base len with
  | some a => s.raise i .memoryOutOfBounds a
  | none => .next goOn

/-! ## Timers and audio (R30, R55) -/

/-- The output `delay_zero` (R30). -/
def State.delayZero (s : State) : Bool := s.dt == 0

/-- The output `sound_zero` (R30). -/
def State.soundZero (s : State) : Bool := s.st == 0

/-- The output `tone_on` (R30). -/
def State.toneOn (s : State) : Bool := !s.soundZero

/-- `ST <- v`, with one `tone` event if that changes `tone_on` (R55, R232). -/
def State.setSound (b : Byte) (s : State) : State :=
  if (s.setSt b).toneOn = s.toneOn then s.setSt b else (s.setSt b).emitTone (s.setSt b).toneOn

/-! ## Input (R33, R220) -/

/-- `KEY[k]`. -/
def State.pressed (s : State) (k : RegIndex) : Bool := s.key[k]

/-- `first_pressed()` (R220): the smallest pressed key. -/
def State.firstPressed (s : State) : Option RegIndex := (List.finRange 16).find? s.pressed

/-- The output `blocked` (R34). -/
def State.blocked (s : State) : Bool := s.wait.isSome

/-! ## Display (R32, R121-R123) -/

/-- `DISP[x, y]`. -/
def Display.cell (d : Display) (c : CellPos) : Bool := d[c.2][c.1]

/-- `DISP[x, y] <- not DISP[x, y]`. -/
def Display.flip (d : Display) (c : CellPos) : Display := d.set c.2.val (d[c.2].set c.1.val (!Display.cell d c))

/-- All cells off (R39, R120). -/
def Display.off : Display := Vector.replicate 32 (Vector.replicate 64 false)

/-- The pixel loop of R121 over the cells its lit pixels land on: each one on already is a collision, and each toggles. -/
def Display.xorCells : List CellPos → Display × Bool → Display × Bool
  | [], acc => acc
  | c :: cs, acc => Display.xorCells cs (Display.flip acc.1 c, acc.2 || Display.cell acc.1 c)

/-- Draw the sprite of the given rows at (vx, vy): the display, then VF (R121). -/
def State.drawSprite (vx vy : Byte) (rows : List Byte) (s : State) : State :=
  let origin := spriteOrigin vx vy
  let drawn := Display.xorCells (litCells s.params.spriteEdge origin.1 origin.2 rows) (s.disp, false)
  (s.setDisp drawn.1).setFlag (collisionFlag drawn.2)

end Sys2Proof.Machine
end

