-- ==== Sys2Proof/Machine/Alu.lean ====
section
/-! DEFINITION. Machine/Alu.lean: register loads and the ALU (43_alu.md). Operands are read from the state at the start of
execute, and a flag is written last (R13, R161). -/

namespace Sys2Proof.Machine

/-- 6XNN LD Vx, byte (R162). -/
def execLdByte (x : RegIndex) (kk : Byte) (s : State) : Host.Outcome State Fault Refusal := .next (s.setReg x kk)

/-- 7XNN ADD Vx, byte (R163): no flag. -/
def execAddByte (x : RegIndex) (kk : Byte) (s : State) : Host.Outcome State Fault Refusal :=
  .next (s.setReg x (sum8 (s.reg x) kk))

/-- 8XY0 LD Vx, Vy (R164). -/
def execLdReg (x y : RegIndex) (s : State) : Host.Outcome State Fault Refusal := .next (s.setReg x (s.reg y))

/-- 8XY1 OR (R165): no flag. -/
def execOrReg (x y : RegIndex) (s : State) : Host.Outcome State Fault Refusal :=
  .next (s.setReg x (s.reg x ||| s.reg y))

/-- 8XY2 AND (R166): no flag. -/
def execAndReg (x y : RegIndex) (s : State) : Host.Outcome State Fault Refusal :=
  .next (s.setReg x (s.reg x &&& s.reg y))

/-- 8XY3 XOR (R167): no flag. -/
def execXorReg (x y : RegIndex) (s : State) : Host.Outcome State Fault Refusal :=
  .next (s.setReg x (s.reg x ^^^ s.reg y))

/-- 8XY4 ADD Vx, Vy (R168). -/
def execAddReg (x y : RegIndex) (s : State) : Host.Outcome State Fault Refusal :=
  .next (s.setRegFlag x (sum8 (s.reg x) (s.reg y)) (carryFlag (s.reg x) (s.reg y)))

/-- 8XY5 SUB Vx, Vy (R169). -/
def execSubReg (x y : RegIndex) (s : State) : Host.Outcome State Fault Refusal :=
  .next (s.setRegFlag x (diff8 (s.reg x) (s.reg y)) (noBorrowFlag (s.reg x) (s.reg y)))

/-- 8XY6 SHR Vx (R170): the source is V[x]; the Y field is not used. -/
def execShr (x : RegIndex) (s : State) : Host.Outcome State Fault Refusal :=
  .next (s.setRegFlag x (half8 (s.reg x)) (lowBitFlag (s.reg x)))

/-- 8XY7 SUBN Vx, Vy (R171). -/
def execSubnReg (x y : RegIndex) (s : State) : Host.Outcome State Fault Refusal :=
  .next (s.setRegFlag x (diff8 (s.reg y) (s.reg x)) (noBorrowFlag (s.reg y) (s.reg x)))

/-- 8XYE SHL Vx (R172): the source is V[x]; the Y field is not used. -/
def execShl (x : RegIndex) (s : State) : Host.Outcome State Fault Refusal :=
  .next (s.setRegFlag x (double8 (s.reg x)) (highBitFlag (s.reg x)))

end Sys2Proof.Machine
end

