-- ==== Sys2Proof/Machine/ControlFlow.lean ====
section
/-! DEFINITION. Machine/ControlFlow.lean: control transfer (42_control_flow.md). Each meaning is the execute phase, with PC
already the instruction's address plus 2 (40_step_cycle.md R103). -/

namespace Sys2Proof.Machine

/-- 00EE RET (R140). -/
def execRet (s : State) : Host.Outcome State Fault Refusal :=
  match s.pop with
  | some (a, s') => .next (s'.setPc a)
  | none => s.raise .ret .stackUnderflow s.sp.val

/-- 1NNN JP (R141). -/
def execJp (nnn : Addr) (s : State) : Host.Outcome State Fault Refusal := .next (s.setPc (zextAddr nnn))

/-- 2NNN CALL (R142): the return address pushed is PC, the address after the call. -/
def execCall (nnn : Addr) (s : State) : Host.Outcome State Fault Refusal :=
  match s.push s.pc with
  | some s' => .next (s'.setPc (zextAddr nnn))
  | none => s.raise (.call nnn) .stackOverflow s.sp.val

/-- 3XNN SE Vx, byte (R143). -/
def execSeByte (x : RegIndex) (kk : Byte) (s : State) : Host.Outcome State Fault Refusal :=
  .next (s.skipIf (s.reg x == kk))

/-- 4XNN SNE Vx, byte (R144). -/
def execSneByte (x : RegIndex) (kk : Byte) (s : State) : Host.Outcome State Fault Refusal :=
  .next (s.skipIf (s.reg x != kk))

/-- 5XY0 SE Vx, Vy (R145). -/
def execSeReg (x y : RegIndex) (s : State) : Host.Outcome State Fault Refusal :=
  .next (s.skipIf (s.reg x == s.reg y))

/-- 9XY0 SNE Vx, Vy (R146). -/
def execSneReg (x y : RegIndex) (s : State) : Host.Outcome State Fault Refusal :=
  .next (s.skipIf (s.reg x != s.reg y))

end Sys2Proof.Machine
end

