-- ==== Sys2Proof/Machine/Display.lean ====
section
/-! DEFINITION. Machine/Display.lean: the display instructions (41_display.md). Each meaning is the execute phase, with PC
already the instruction's address plus 2 (40_step_cycle.md R103). -/

namespace Sys2Proof.Machine

/-- 00E0 CLS (R120). -/
def execCls (s : State) : Host.Outcome State Fault Refusal := .next (s.setDisp Display.off)

/-- DXYN DRW (R121): the range check covers all n rows, clipped or not (D26); n = 0 reads nothing. -/
def execDrw (x y : RegIndex) (n : Nibble) (s : State) : Host.Outcome State Fault Refusal :=
  s.inRange (.drw x y n) s.i.toNat n.toNat
    (s.drawSprite (s.reg x) (s.reg y) (s.readBytes s.i.toNat n.toNat))

end Sys2Proof.Machine
end

