-- ==== Sys2Proof/Machine/IndexMemory.lean ====
section
/-! DEFINITION. Machine/IndexMemory.lean: the index register and the memory instructions (44_index_memory.md). The whole
range of an access is checked before any effect (20_memory.md R65). I is unchanged by the last three (D9). -/

namespace Sys2Proof.Machine

/-- ANNN LD I, addr (R190). -/
def execLdI (nnn : Addr) (s : State) : Host.Outcome State Fault Refusal := .next (s.setI (zextAddr nnn))

/-- FX1E ADD I, Vx (R191): mod 2^16, no flag (D8). -/
def execAddI (x : RegIndex) (s : State) : Host.Outcome State Fault Refusal := .next (s.setI (s.i + zextByte (s.reg x)))

/-- FX29 LD F, Vx (R192): the whole of V[x], not masked. -/
def execLdF (x : RegIndex) (s : State) : Host.Outcome State Fault Refusal :=
  .next (s.setI (glyphAddr s.params.fontBase (s.reg x)))

/-- FX33 LD B, Vx (R194). -/
def execLdB (x : RegIndex) (s : State) : Host.Outcome State Fault Refusal :=
  s.inRange (.ldB x) s.i.toNat 3 (s.storeBytes s.i.toNat (bcdDigits (s.reg x)))

/-- FX55 LD [I], Vx (R195). -/
def execLdMemVx (x : RegIndex) (s : State) : Host.Outcome State Fault Refusal :=
  s.inRange (.ldMemVx x) s.i.toNat (x.val + 1) (s.storeBytes s.i.toNat (s.regsUpTo x))

/-- FX65 LD Vx, [I] (R196). -/
def execLdVxMem (x : RegIndex) (s : State) : Host.Outcome State Fault Refusal :=
  s.inRange (.ldVxMem x) s.i.toNat (x.val + 1) (s.loadRegs x s.i.toNat)

end Sys2Proof.Machine
end

