-- ==== Sys2Proof/Machine/Input.lean ====
section
/-! DEFINITION. Machine/Input.lean: the input instructions and the blocked-on-key poll (46_input.md). -/

namespace Sys2Proof.Machine

/-- EX9E SKP Vx (R215, R217). -/
def execSkp (x : RegIndex) (s : State) : Host.Outcome State Fault Refusal :=
  match keyOfByte (s.reg x) with
  | some k => .next (s.skipIf (s.pressed k))
  | none => s.raise (.skp x) .keyOutOfRange (s.reg x).toNat

/-- EXA1 SKNP Vx (R216, R217). -/
def execSknp (x : RegIndex) (s : State) : Host.Outcome State Fault Refusal :=
  match keyOfByte (s.reg x) with
  | some k => .next (s.skipIf (!s.pressed k))
  | none => s.raise (.sknp x) .keyOutOfRange (s.reg x).toNat

/-- FX0A LD Vx, K (R221): resolved within the same step if a key is held, else blocked-on-key. -/
def execLdVxK (x : RegIndex) (s : State) : Host.Outcome State Fault Refusal :=
  match s.firstPressed with
  | some k => .next (s.setReg x (byteOfKey k))
  | none => .next (s.setWait (some x))

/-- `blocked_poll(x)` (R222): a step taken while WAIT = some x. -/
def State.blockedPoll (x : RegIndex) (s : State) : State :=
  match s.firstPressed with
  | some k => (s.setReg x (byteOfKey k)).setWait none
  | none => s

end Sys2Proof.Machine
end

