-- ==== Sys2Proof/Machine/Random.lean ====
section
/-! DEFINITION. Machine/Random.lean: the random byte (45_random.md). -/

namespace Sys2Proof.Machine

/-- `RandomByte()` (R210): the next byte of this instance's random source, a free value (log entry 4). -/
def State.randomByte (s : State) : Byte := Config.randomByte s.params.rngSeed s.rngDraws

/-- The effect of CXNN when the draw is `r` (R211). -/
def rndWith (r : Byte) (x : RegIndex) (kk : Byte) (s : State) : State := (s.setReg x (r &&& kk)).countDraw

/-- CXNN RND Vx, byte (R211): one draw whatever kk is. -/
def execRnd (x : RegIndex) (kk : Byte) (s : State) : Host.Outcome State Fault Refusal :=
  .next (rndWith s.randomByte x kk s)

end Sys2Proof.Machine
end

