-- ==== Sys2Proof/Machine/Timers.lean ====
section
/-! DEFINITION. Machine/Timers.lean: the timer instructions (47_timers.md). -/

namespace Sys2Proof.Machine

/-- FX07 LD Vx, DT (R230). -/
def execLdVxDt (x : RegIndex) (s : State) : Host.Outcome State Fault Refusal := .next (s.setReg x s.dt)

/-- FX15 LD DT, Vx (R231). -/
def execLdDtVx (x : RegIndex) (s : State) : Host.Outcome State Fault Refusal := .next (s.setDt (s.reg x))

/-- FX18 LD ST, Vx (R232): one tone event if tone_on changes (R55). -/
def execLdStVx (x : RegIndex) (s : State) : Host.Outcome State Fault Refusal := .next (s.setSound (s.reg x))

end Sys2Proof.Machine
end

