-- ==== Sys2Proof/Machine/Cycle.lean ====
section
/-! DEFINITION. Machine/Cycle.lean: the parts of one `step()` outside the instructions: fetch (40_step_cycle.md R101), what
a step does in each mode and phase (R100, 10_state.md R51), the unimplemented opcode (R104), and the placing of a word
where the next step fetches it. -/

namespace Sys2Proof.Machine

/-- The word at PC, big-endian (R67, R101). -/
def State.fetchWord (s : State) : Word := wordOfBytes (s.byteAt s.pc.toNat) (s.byteAt (s.pc.toNat + 1))

/-- What the next step does (R51, R100). -/
inductive StepKind where
  /-- Nothing: PHASE is not running (R51, R242). -/
  | idle
  /-- The blocked-on-key poll for V[x] (R222). -/
  | poll (x : RegIndex)
  /-- The fetch raises MemoryOutOfBounds with this address (R101). -/
  | fetchFault (a : Nat)
  /-- The word fetched is an unimplemented opcode (R104). -/
  | noOp (w : Word)
  /-- The word fetched is this instruction (R103). -/
  | run (i : Instr)
  deriving DecidableEq, Repr

/-- Decode the fetched word (R102). -/
def decodedKind (d : Decoded) : StepKind :=
  match d with
  | .instr i => .run i
  | .unimplemented w => .noOp w

/-- The fetch at PC (R101): the two bytes must lie within memory (R65). -/
def State.fetchKind (s : State) : StepKind :=
  match checkRange s.pc.toNat 2 with
  | some a => .fetchFault a
  | none => decodedKind (decode s.fetchWord)

/-- The order of R100: the phase, then the wait state, then fetch and decode. -/
def State.stepKind (s : State) : StepKind :=
  if s.phase = .running then
    match s.wait with
    | some x => .poll x
    | none => s.fetchKind
  else .idle

/-- A failed fetch (R101, R241): PC stays, and the record has no word. -/
def State.raiseFetch (a : Nat) (s : State) : State := s.enterFault s.pc none .memoryOutOfBounds a

/-- `unimplemented(a, w)` (R104): the advance of the fetch, and one diagnostic event with the address and the word. -/
def State.unimplemented (w : Word) (s : State) : State := s.advance.emitDiag ⟨s.pc, w⟩

/-- The state with the word `w` where the next step fetches its instruction: in the two bytes at PC (at 0x200 if no word
can be fetched at PC), in mode running and phase running, as after a program load (R282; log entry 8). -/
def State.placeWord (w : Word) (s : State) : State :=
  let a : Word := if (checkRange s.pc.toNat 2).isSome then 0x200 else s.pc
  (((s.storeBytes a.toNat [highByte w, lowByte w]).setPc a).setWait none).setPhase .running

end Sys2Proof.Machine
end

