-- ==== Sys2Proof/Machine/Step.lean ====
section
/-! DEFINITION. Machine/Step.lean: one `step()` (40_step_cycle.md R100), and the host's placing of a word to run. -/

namespace Sys2Proof.Machine

/-- `step()` (R100). Before an instruction executes, PC is advanced by 2 (R101); a fault or an unimplemented word is a next
state too (R104, R241), so every step answers a next state. -/
def step (s : State) : Host.Outcome State Fault Refusal :=
  match s.stepKind with
  | .idle => .next s
  | .poll x => .next (s.blockedPoll x)
  | .fetchFault a => .next (s.raiseFetch a)
  | .noOp w => .next (s.unimplemented w)
  | .run i => exec i s.advance

/-- `s` with the table word `w` stored where `step` fetches its next instruction. -/
def State.withFetchWord (s : State) (nbits w : Nat) : State := s.placeWord (tableWord nbits w)

end Sys2Proof.Machine
end

