-- ==== Sys2Proof/Machine/Environment.lean ====
section
/-! DEFINITION. Machine/Environment.lean: the operations the environment invokes beside `step()` (10_state.md R50), as
functions of the state: reset (70_reset_and_hazards.md R280), program load (R282), timer tick (60_exceptions.md R260) and
input (10_state.md R53); and the display output (R54). -/

namespace Sys2Proof.Machine

/-- `reset()` (R280): every state element at its R39 value. The parameters are the instance's own, the random source is
outside the block and goes on, and events already emitted stay emitted; reset emits none (log entry 11). -/
def State.resetOp (s : State) : State :=
  { State.reset with params := s.params, rngDraws := s.rngDraws, diagOut := s.diagOut, toneOut := s.toneOut }

/-- `load_program(bytes)` (R282): defined in phase ready only; elsewhere it changes nothing. -/
def State.loadProgram (bytes : List Byte) (s : State) : State :=
  if s.phase = .ready then
    if bytes.length > Config.progMax then
      (s.setFault (some ⟨.loadError, 0x200, none, bytes.length⟩)).setPhase .loadFailed
    else (s.storeBytes Config.progBase bytes).setPhase .running
  else s

/-- A timer after one tick: one less, never below 0 (R260). -/
def ticked (b : Byte) : Byte := if b = 0 then 0 else b - 1

/-- The two decrements and the notification of R260. -/
def State.tickBoth (s : State) : State :=
  if s.st = 1 then ((s.setDt (ticked s.dt)).setSt (ticked s.st)).emitTone false
  else (s.setDt (ticked s.dt)).setSt (ticked s.st)

/-- `tick_timers()` (R260): in phases ready and running; in halted and load_failed it does nothing (R242). -/
def State.tickTimers (s : State) : State :=
  match s.phase with
  | .ready => s.tickBoth
  | .running => s.tickBoth
  | .halted => s
  | .loadFailed => s

/-- `set_input(vector)` (R53): the whole vector at once, in every phase. -/
def State.setInput (vector : Keys) (s : State) : State := s.setKey vector

/-- The output `display` (R54): the cell grid, a copy. -/
def State.snapshot (s : State) : Display := s.disp

end Sys2Proof.Machine
end

