-- ==== Sys2Proof/Machine/Schedule.lean ====
section
/-! DEFINITION. Machine/Schedule.lean: the five operations of the interface together (10_state.md R50), so that a claim can
admit any interleaving of them, and the driver's frame (70_reset_and_hazards.md R289). -/

namespace Sys2Proof.Machine

/-- An operation the environment invokes (R50, R266). -/
inductive Op where
  /-- `reset()` (R280). -/
  | reset
  /-- `load_program(bytes)` (R282). -/
  | loadProgram (bytes : List Byte)
  /-- `step()` (R100). -/
  | step
  /-- `tick_timers()` (R260). -/
  | tickTimers
  /-- `set_input(vector)` (R53). -/
  | setInput (vector : Keys)
  deriving DecidableEq, Repr

/-- One operation, atomic (R50, R107). -/
def operate (op : Op) (s : State) : Host.Outcome State Fault Refusal :=
  match op with
  | .reset => .next s.resetOp
  | .loadProgram bytes => .next (s.loadProgram bytes)
  | .step => step s
  | .tickTimers => .next s.tickTimers
  | .setInput vector => .next (s.setInput vector)

/-- A sequence of operations, in order. -/
def operateAll : List Op → State → Host.Outcome State Fault Refusal
  | [], s => .next s
  | op :: ops, s =>
    match operate op s with
    | .next t => operateAll ops t
    | .fault r => .fault r
    | .refused r => .refused r

/-- The operations of one frame (R289): a batch of `stepsPerFrame` steps, one tick, the next input vector. A step outside
phase running has no effect (R51), so R289's test of the phase adds nothing. -/
def frameOps (stepsPerFrame : Nat) (vector : Keys) : List Op :=
  List.replicate stepsPerFrame .step ++ [.tickTimers, .setInput vector]

/-- `frame()` (R289), for any STEPS_PER_FRAME (R9, D16). -/
def frame (stepsPerFrame : Nat) (vector : Keys) (s : State) : Host.Outcome State Fault Refusal :=
  operateAll (frameOps stepsPerFrame vector) s

end Sys2Proof.Machine
end

