-- ==== Sys2Proof/Safety.lean ====
section
/-! DEFINITION. Safety.lean: what counts as a safe run, and the invariant of the block, in the terms the statements use. -/

namespace Sys2Proof.Machine

/-- No fault has been raised: the premise a claim about a program's result takes (70_reset_and_hazards.md R296). -/
abbrev State.safe (s : State) : Prop := s.fault = none

/-- Memory is in its canonical form (Machine/Ops.lean). -/
abbrev State.memOk (s : State) : Prop := Memory.wf s.params s.mem

/-- "PC never exceeds 0x1002" (10_state.md R24). -/
abbrev State.pcOk (s : State) : Prop := s.pc.toNat ≤ 0x1002

/-- Every stack entry is 0 or an address a call pushed, at most 0x1000 (42_control_flow.md R140, R142). -/
abbrev State.stackOk (s : State) : Prop := ∀ j : RegIndex, s.stack[j].toNat ≤ 0x1000

/-- PHASE, FAULT, WAIT and PC agree (10_state.md R34-R36, 60_exceptions.md R241): no fault before or during a run; a
halted block holds the record of a step's fault, whose address PC keeps, and waits for no key; a failed load holds a
LoadError and has run nothing. -/
def State.lifecycleOk (s : State) : Bool :=
  match s.phase, s.fault with
  | .ready, none => s.wait == none && s.pc == 0x200
  | .running, none => true
  | .halted, some r => s.wait == none && r.kind != .loadError && s.pc == r.instAddr
  | .loadFailed, some r => s.wait == none && r.kind == .loadError && r.instAddr == 0x200 && s.pc == 0x200
  | _, _ => false

/-- The invariant of the block: every operation keeps it, and the reset state has it. -/
abbrev State.Inv (s : State) : Prop := s.memOk ∧ s.pcOk ∧ s.stackOk ∧ s.lifecycleOk = true

/-- The states that operations can reach from the reset state, under any parameters and any random source (R266). -/
inductive Reachable (p : Config.Params) : State → Prop where
  /-- The block as constructed with the parameters `p`. -/
  | construct (draws : Nat) : Reachable p { State.reset with params := p, rngDraws := draws }
  /-- One more operation of the environment. -/
  | operate {s t : State} (op : Op) : Reachable p s → operate op s = .next t → Reachable p t

/-- The same state with other events already emitted on the two output streams (R54): for claims about what a step can
observe. -/
def State.setStreams (diag : List DiagEvent) (tone : List Bool) (s : State) : State :=
  { s with diagOut := diag, toneOut := tone }

/-- When an instruction raises a fault, which one, and with what info (60_exceptions.md R240, 20_memory.md R65), from the
state of its execute phase. -/
def faultCause (i : Instr) (s : State) : Option (Fault × Nat) :=
  match i with
  | .ret => if s.sp.val = 0 then some (.stackUnderflow, 0) else none
  | .call _ => if s.sp.val = 16 then some (.stackOverflow, 16) else none
  | .skp x => if 16 ≤ (s.reg x).toNat then some (.keyOutOfRange, (s.reg x).toNat) else none
  | .sknp x => if 16 ≤ (s.reg x).toNat then some (.keyOutOfRange, (s.reg x).toNat) else none
  | .drw _ _ n =>
    if 1 ≤ n.toNat ∧ s.i.toNat + n.toNat - 1 > 0xFFF then some (.memoryOutOfBounds, max s.i.toNat 0x1000) else none
  | .ldB _ => if s.i.toNat + 2 > 0xFFF then some (.memoryOutOfBounds, max s.i.toNat 0x1000) else none
  | .ldMemVx x => if s.i.toNat + x.val > 0xFFF then some (.memoryOutOfBounds, max s.i.toNat 0x1000) else none
  | .ldVxMem x => if s.i.toNat + x.val > 0xFFF then some (.memoryOutOfBounds, max s.i.toNat 0x1000) else none
  | .cls | .jp _ | .seByte _ _ | .sneByte _ _ | .seReg _ _ | .ldByte _ _ | .addByte _ _ | .ldReg _ _ | .orReg _ _
  | .andReg _ _ | .xorReg _ _ | .addReg _ _ | .subReg _ _ | .shr _ _ | .subnReg _ _ | .shl _ _ | .sneReg _ _ | .ldI _
  | .rnd _ _ | .ldVxDt _ | .ldVxK _ | .ldDtVx _ | .ldStVx _ | .addI _ | .ldF _ => none

/-- The registers an instruction may write, the table of 10_state.md R22. -/
def writesReg (i : Instr) (j : RegIndex) : Bool :=
  match i with
  | .ldByte x _ | .addByte x _ | .ldReg x _ | .orReg x _ | .andReg x _ | .xorReg x _ | .rnd x _ | .ldVxDt x
  | .ldVxK x => j == x
  | .addReg x _ | .subReg x _ | .subnReg x _ | .shr x _ | .shl x _ => j == x || j == 15
  | .drw _ _ _ => j == 15
  | .ldVxMem x => decide (j ≤ x)
  | .cls | .ret | .jp _ | .call _ | .seByte _ _ | .sneByte _ _ | .seReg _ _ | .sneReg _ _ | .ldI _ | .skp _ | .sknp _
  | .ldDtVx _ | .ldStVx _ | .addI _ | .ldF _ | .ldB _ | .ldMemVx _ => false

/-- The bytes an instruction stores to: the first address and how many (44_index_memory.md R194, R195). Every other
instruction stores none. -/
def storeSpan (i : Instr) (s : State) : Option (Nat × Nat) :=
  match i with
  | .ldB _ => some (s.i.toNat, 3)
  | .ldMemVx x => some (s.i.toNat, x.val + 1)
  | .cls | .ret | .jp _ | .call _ | .seByte _ _ | .sneByte _ _ | .seReg _ _ | .ldByte _ _ | .addByte _ _ | .ldReg _ _
  | .orReg _ _ | .andReg _ _ | .xorReg _ _ | .addReg _ _ | .subReg _ _ | .shr _ _ | .subnReg _ _ | .shl _ _
  | .sneReg _ _ | .ldI _ | .rnd _ _ | .drw _ _ _ | .skp _ | .sknp _ | .ldVxDt _ | .ldVxK _ | .ldDtVx _ | .ldStVx _
  | .addI _ | .ldF _ | .ldVxMem _ => none

/-- Pixel `k` of row `r` of a sprite drawn at (vx, vy) lands on the cell `c` (41_display.md R121, R122): the start wraps
mod 64 and mod 32; a pixel past the edge is dropped under clip and wraps under wrap. -/
def landsOn (edge : Config.SpriteEdge) (vx vy : Byte) (r k : Nat) (c : CellPos) : Prop :=
  match edge with
  | .clip => c.1.val = vx.toNat % 64 + k ∧ c.2.val = vy.toNat % 32 + r
  | .wrap => c.1.val = (vx.toNat % 64 + k) % 64 ∧ c.2.val = (vy.toNat % 32 + r) % 32

/-- Some pixel of value 1 of the n-row sprite at MEM[I] drawn at (V[x], V[y]) lands on the cell `c` (R121). -/
def spriteLights (x y : RegIndex) (n : Nibble) (s : State) (c : CellPos) : Prop :=
  ∃ r < n.toNat, ∃ k < 8, (s.byteAt (s.i.toNat + r)).getLsbD (7 - k) = true ∧
    landsOn s.params.spriteEdge (s.reg x) (s.reg y) r k c

end Sys2Proof.Machine
end

