-- ==== Sys2Proof/Certificates/Slice0/Obligations.lean ====
section
/-! DEFINITION. Certificates/Slice0/Obligations.lean: the statements for the provers, one `def Obligations.<Name> : Prop`
each. In a statement about `exec`, the state is that of the execute phase: PC is already the instruction's address plus 2
(40_step_cycle.md R101, R103). -/

open Sys2Proof Sys2Proof.Machine

/-! ## Encoding (30_encoding.md) -/

/-- Decode and encode agree, for every instruction and every operand, on the word and on the bytes in memory order (R81,
R83, R84, R67). Every instruction is well-formed, so there is no premise. -/
def Obligations.DecodeOfEncodeIsIdentity : Prop :=
  ∀ (i : Instr) (rest : List Byte),
    decode (encode i) = .instr i ∧ decodeBytes (encodeBytes i ++ rest) = .word (.instr i) rest

/-- R102: decode selects the row whose `(w and mask) = match`, with the operands the word's fields, or unimplemented if
no row matches. -/
def Obligations.DecodeSelectsTheMatchingRow : Prop :=
  ∀ w : Word,
    (∀ i, decode w = .instr i ↔ i.row.selects w = true ∧ encode i = w) ∧
    (decode w = .unimplemented w ↔ ∀ k : Fin 33, opcodeTable[k].selects w = false)

/-- R89: every word matches at most one row. -/
def Obligations.OpcodeRowsAreDisjoint : Prop :=
  ∀ (w : Word) (j k : Fin 33), opcodeTable[j].selects w = true → opcodeTable[k].selects w = true → j = k

/-- R87, and R88 with the spec's decision D12: a step that fetches a word of class B, or a word of class 0 other than
0x00E0 and 0x00EE, only advances PC and emits one diagnostic. -/
def Obligations.ClassBAndOtherClassZeroWordsAreNoOps : Prop :=
  ∀ s : State, s.phase = .running → s.wait = none → s.pc.toNat + 1 ≤ 0xFFF →
    (classField s.fetchWord = 0xB ∨ (classField s.fetchWord = 0 ∧ s.fetchWord ≠ 0x00E0 ∧ s.fetchWord ≠ 0x00EE)) →
    step s = .next { s with pc := s.pc + 2, diagOut := s.diagOut ++ [⟨s.pc, s.fetchWord⟩] }

/-- Words written out from the bit strings of R84, one of each family, decode to the instruction they stand for. -/
def Obligations.WordsFromTheSpecDecode : Prop :=
  decode 0b0000000011100000 = .instr .cls ∧
  decode 0b1101000000010101 = .instr (.drw 0 1 5) ∧
  decode 0b0010001100000000 = .instr (.call 0x300) ∧
  decode 0b0011001100010010 = .instr (.seByte 3 0x12) ∧
  decode 0b1000000100100101 = .instr (.subReg 1 2) ∧
  decode 0b1111001001010101 = .instr (.ldMemVx 2) ∧
  decode 0b1100001100001111 = .instr (.rnd 3 0x0F) ∧
  decode 0b1110010110100001 = .instr (.sknp 5) ∧
  decode 0b1111010100000111 = .instr (.ldVxDt 5) ∧
  decode 0b1011001100000000 = .unimplemented 0xB300

/-! ## The step (40_step_cycle.md) -/

/-- R100, R103: when the word at PC decodes to an instruction, a step is `exec` of it, with PC advanced by 2 first. -/
def Obligations.StepRunsTheDecodedInstruction : Prop :=
  ∀ (s : State) (i : Instr), s.phase = .running → s.wait = none → s.pc.toNat + 1 ≤ 0xFFF →
    decode (wordOfBytes (s.byteAt s.pc.toNat) (s.byteAt (s.pc.toNat + 1))) = .instr i →
    step s = exec i { s with pc := s.pc + 2 }

/-- R101, with the spec's decisions D5 and D14 for the fault: a fetch at PC raises MemoryOutOfBounds with max(PC,
0x1000) if PC + 1 passes 0xFFF, and PC stays; otherwise the word is MEM[PC] * 256 + MEM[PC + 1], and execution, or the
no-op of an unimplemented word, starts with PC + 2. -/
def Obligations.FetchIsBigEndianAndBounded : Prop :=
  ∀ s : State, s.phase = .running → s.wait = none →
    (s.pc.toNat + 1 > 0xFFF →
      step s = .next { s with
        fault := some ⟨.memoryOutOfBounds, s.pc, none, max s.pc.toNat 0x1000⟩, phase := .halted }) ∧
    (s.pc.toNat + 1 ≤ 0xFFF →
      s.fetchWord.toNat = (s.byteAt s.pc.toNat).toNat * 256 + (s.byteAt (s.pc.toNat + 1)).toNat ∧
      ((∃ i, decode s.fetchWord = .instr i ∧ step s = exec i { s with pc := s.pc + 2 }) ∨
        decode s.fetchWord = .unimplemented s.fetchWord ∧ ∃ t, step s = .next t ∧ t.pc = s.pc + 2))

/-- R104: an unimplemented opcode emits one diagnostic with its address and word and advances PC; nothing else
changes. -/
def Obligations.UnimplementedWordIsNoOpWithDiag : Prop :=
  ∀ s : State, s.phase = .running → s.wait = none → s.pc.toNat + 1 ≤ 0xFFF → wordImplemented s.fetchWord = false →
    step s = .next { s with pc := s.pc + 2, diagOut := s.diagOut ++ [⟨s.pc, s.fetchWord⟩] }

/-- R51, the spec's decision D18: outside phase running a step has no effect and raises nothing. -/
def Obligations.StepOutsideRunningHasNoEffect : Prop :=
  ∀ s : State, s.phase ≠ .running → step s = .next s

/-- R222, R220, the spec's decisions D3 and D28: a step while WAIT = some x fetches nothing, leaves PC, and gives V[x]
the smallest pressed key and leaves the mode, or, with no key pressed, changes nothing. -/
def Obligations.BlockedStepPollsTheKeys : Prop :=
  ∀ (s : State) (x : RegIndex), s.phase = .running → s.wait = some x →
    (∀ k : RegIndex, s.key[k] = true → (∀ j : RegIndex, j < k → s.key[j] = false) →
      ∃ t, step s = .next t ∧ (t.reg x).toNat = k.val ∧ (∀ j, j ≠ x → t.reg j = s.reg j) ∧
        t = { s with v := t.v, wait := none }) ∧
    ((∀ k : RegIndex, s.key[k] = false) → step s = .next s)

/-- The model's choice of outcomes (log entry 1): a fault is taken as a next state, so in every state a step answers a
next state, and so does every instruction, never the host's fault or refusal. It does not say that a run goes on: a
fault ends the run (R296), in phase halted. -/
def Obligations.EveryStepAnswersNext : Prop :=
  ∀ s : State, (∃ t, step s = .next t) ∧ ∀ i : Instr, ∃ t, exec i s = .next t

/-! ## Faults (60_exceptions.md) -/

/-- R106, R241, the spec's decision D5: whenever a step of a running block leaves phase running, the state is exactly
the state before it, PC included, plus the record and PHASE = halted; the record's address is PC, and its word is the
word fetched, or none if the fetch failed. -/
def Obligations.FaultsArePrecise : Prop :=
  ∀ s t : State, s.phase = .running → step s = .next t → t.phase ≠ .running →
    ∃ r : FaultRecord, t = { s with fault := some r, phase := .halted } ∧ r.kind ≠ .loadError ∧ r.instAddr = s.pc ∧
      ((s.pc.toNat + 1 > 0xFFF ∧ r.word = none) ∨ (s.pc.toNat + 1 ≤ 0xFFF ∧ r.word = some s.fetchWord))

/-- R240, R241, with the spec's decisions D4 to D7: an instruction raises exactly the fault the table gives it, exactly
when its cause holds, with the info the table names, and its entry changes nothing but PC, FAULT and PHASE; when no
cause holds it completes, with FAULT and PHASE as they were. -/
def Obligations.InstructionsFaultExactlyAsTabled : Prop :=
  ∀ (i : Instr) (s : State),
    (∀ k v, faultCause i s = some (k, v) →
      exec i s = .next { s with
        pc := s.pc - 2, fault := some ⟨k, s.pc - 2, some (encode i), v⟩, phase := .halted }) ∧
    (faultCause i s = none → ∃ t, exec i s = .next t ∧ t.fault = s.fault ∧ t.phase = s.phase)

/-- R242, the spec's decision D18: in phases halted and load_failed, no operation but reset changes anything but KEY,
and only `set_input` changes that. -/
def Obligations.HaltedStateIsFinal : Prop :=
  ∀ (op : Op) (s : State), s.phase = .halted ∨ s.phase = .loadFailed → op ≠ .reset →
    (∀ v, op = .setInput v → operate op s = .next { s with key := v }) ∧
    ((∀ v, op ≠ .setInput v) → operate op s = .next s)

/-- R296, derived by the spec from R241 and R242: a run ends only when a step's fault halts it (or the environment
resets the block). -/
def Obligations.RunEndsOnlyByAFault : Prop :=
  ∀ (op : Op) (s t : State), s.phase = .running → operate op s = .next t → t.phase ≠ .running →
    op = .reset ∨ (op = .step ∧ t.phase = .halted ∧ ¬ t.safe)

/-! ## The environment's operations (10_state.md, 60_exceptions.md, 70_reset_and_hazards.md) -/

/-- R52, derived by the spec: `tick_timers` writes only DT and ST (and the tone stream), `set_input` only KEY,
`load_program` after the load nothing, and `step` neither KEY nor the parameters. -/
def Obligations.OperationsWriteOnlyTheirState : Prop :=
  (∀ s : State, ∃ t, operate .tickTimers s = .next t ∧ t = { s with dt := t.dt, st := t.st, toneOut := t.toneOut }) ∧
  (∀ (s : State) (v : Keys), operate (.setInput v) s = .next { s with key := v }) ∧
  (∀ (s : State) (bytes : List Byte), s.phase ≠ .ready → operate (.loadProgram bytes) s = .next s) ∧
  (∀ s t : State, operate .step s = .next t → t.key = s.key ∧ t.params = s.params)

/-- R260: a tick takes one from each timer, never below 0, with `tone(off)` exactly when ST was 1; in halted and
load_failed it does nothing. -/
def Obligations.TickDecrementsBothTimers : Prop :=
  ∀ s : State,
    (s.phase = .ready ∨ s.phase = .running →
      ∃ t, operate .tickTimers s = .next t ∧ t.dt.toNat = s.dt.toNat - 1 ∧ t.st.toNat = s.st.toNat - 1 ∧
        t.toneOut = s.toneOut ++ (if s.st = 1 then [false] else []) ∧
        t = { s with dt := t.dt, st := t.st, toneOut := t.toneOut }) ∧
    (s.phase = .halted ∨ s.phase = .loadFailed → operate .tickTimers s = .next s)

/-- R53, with the spec's decision D17 that it may come between any two operations: `set_input` replaces the whole
vector, in every phase, and nothing else. -/
def Obligations.SetInputReplacesTheKeys : Prop :=
  ∀ (s : State) (v : Keys), ∃ t, operate (.setInput v) s = .next t ∧ (∀ k : RegIndex, t.pressed k = v[k]) ∧
    t = { s with key := t.key }

/-- R280, R39: reset puts every element at its value in any phase, and emits nothing. PC, the timers and V are the
values the spec states; the others are its decision D10 (log entry 6), the font D11 (log entry 3), and that the
parameters and the events already emitted stay is the model's choice (log entry 11). -/
def Obligations.ResetPutsEveryElement : Prop :=
  ∀ s : State, ∃ t, operate .reset s = .next t ∧
    (∀ x, t.reg x = 0) ∧ t.pc = 0x200 ∧ t.i = 0 ∧ t.sp = 0 ∧ (∀ j : RegIndex, t.stack[j] = 0) ∧ t.dt = 0 ∧ t.st = 0 ∧
    (∀ j : Fin 80, t.params.fontBase.toNat + j.val ≤ 0xFFF →
      t.byteAt (t.params.fontBase.toNat + j.val) = t.params.fontData[j]) ∧
    (∀ a, a < t.params.fontBase.toNat ∨ t.params.fontBase.toNat + 80 ≤ a → t.byteAt a = 0) ∧
    (∀ c, Display.cell t.disp c = false) ∧ (∀ k, t.pressed k = false) ∧ t.wait = none ∧ t.fault = none ∧
    t.phase = .ready ∧ t.diagOut = s.diagOut ∧ t.toneOut = s.toneOut ∧ t.params = s.params ∧
    t.delayZero = true ∧ t.soundZero = true ∧ t.toneOn = false ∧ t.blocked = false

/-- R282, with the spec's decision D25: `load_program` in phase ready copies the bytes to 0x200 and starts the run, or,
if they are too many, copies none and fails; outside ready it changes nothing. -/
def Obligations.LoadProgramCopiesOrFails : Prop :=
  ∀ (s : State) (bytes : List Byte),
    (s.phase = .ready → bytes.length > 3584 →
      operate (.loadProgram bytes) s = .next { s with
        fault := some ⟨.loadError, 0x200, none, bytes.length⟩, phase := .loadFailed }) ∧
    (s.phase = .ready → bytes.length ≤ 3584 → s.memOk →
      ∃ t, operate (.loadProgram bytes) s = .next t ∧
        (∀ (k : Nat) (h : k < bytes.length), t.byteAt (0x200 + k) = bytes[k]) ∧
        (∀ a, a < 0x200 ∨ 0x200 + bytes.length ≤ a → t.byteAt a = s.byteAt a) ∧
        t = { s with mem := t.mem, phase := .running }) ∧
    (s.phase ≠ .ready → operate (.loadProgram bytes) s = .next s)

/-- R283, derived by the spec: the state after a successful load, from the reset state. I, SP, the display and the
memory rest on its decisions D10 and D11 (log entries 3 and 6). -/
def Obligations.StateAfterLoad : Prop :=
  ∀ bytes : List Byte, bytes.length ≤ 3584 →
    ∃ t, operate (.loadProgram bytes) State.reset = .next t ∧
      t.pc = 0x200 ∧ t.dt = 0 ∧ t.st = 0 ∧ (∀ x, t.reg x = 0) ∧ t.i = 0 ∧ t.sp = 0 ∧
      (∀ c, Display.cell t.disp c = false) ∧ t.wait = none ∧ t.phase = .running ∧ t.safe ∧
      (∀ j : Fin 80, t.byteAt (0x050 + j.val) = fontDataReset[j]) ∧
      (∀ (k : Nat) (h : k < bytes.length), t.byteAt (0x200 + k) = bytes[k]) ∧
      (∀ a, a < 0x050 ∨ (0x0A0 ≤ a ∧ a < 0x200) ∨ 0x200 + bytes.length ≤ a → t.byteAt a = 0)

/-- R55: every operation but reset appends to the tone stream exactly one event when it changes `tone_on`, with the new
value, and none when it does not; reset appends none. That the stream is a list of State (log entry 5), and that the
events already emitted stay in it at a reset (log entry 11), is the model's choice. -/
def Obligations.ToneEventsMarkEachChange : Prop :=
  ∀ (op : Op) (s t : State), operate op s = .next t →
    (op = .reset → t.toneOut = s.toneOut) ∧
    (op ≠ .reset → t.toneOut = s.toneOut ++ if t.toneOn = s.toneOn then [] else [t.toneOn])

/-! ## Invariants -/

/-- Every step keeps the invariant: canonical memory, PC at most 0x1002 (R24), stack entries at most 0x1000, and PHASE,
FAULT, WAIT and PC in agreement (R34-R36, R241). The invariant is the model's own inference from these rules. -/
def Obligations.StepKeepsTheInvariant : Prop :=
  ∀ s t : State, s.Inv → step s = .next t → t.Inv

/-- Every operation of the environment keeps the invariant too, so every interleaving does (R50, R266). -/
def Obligations.EveryOperationKeepsTheInvariant : Prop :=
  ∀ (op : Op) (s t : State), s.Inv → operate op s = .next t → t.Inv

/-- The reset state has the invariant, whatever the parameters and the place in the random source. -/
def Obligations.ResetHasTheInvariant : Prop :=
  State.reset.Inv ∧ ∀ (p : Config.Params) (n : Nat), ({ State.reset with params := p, rngDraws := n } : State).Inv

/-- Every state that any sequence of operations reaches from construction has the invariant, and the parameters it was
constructed with (R24, R266). -/
def Obligations.ReachableStatesHaveTheInvariant : Prop :=
  ∀ (p : Config.Params) (s : State), Reachable p s → s.Inv ∧ s.params = p

/-! ## Display (41_display.md) -/

/-- R120: 00E0 completes, turns every cell off, and changes nothing else. -/
def Obligations.ClsTurnsEveryCellOff : Prop :=
  ∀ s : State, ∃ t, exec .cls s = .next t ∧ (∀ c, Display.cell t.disp c = false) ∧ t = { s with disp := t.disp }

/-- R121, R122, R123: DXYN completes when n = 0 or I + n - 1 is at most 0xFFF: every cell is XORed with the sprite under
the edge policy, VF is 1 exactly if a lit pixel landed on a cell that was on, and nothing else changes. Otherwise it
raises MemoryOutOfBounds, before any effect (the spec's decisions D5, D6 and D26). -/
def Obligations.DrwXorsTheSpriteAndSetsCollision : Prop :=
  ∀ (s : State) (x y : RegIndex) (n : Nibble),
    ((n.toNat = 0 ∨ s.i.toNat + n.toNat - 1 ≤ 0xFFF) →
      ∃ t, exec (.drw x y n) s = .next t ∧
        (∀ c, spriteLights x y n s c → Display.cell t.disp c = !Display.cell s.disp c) ∧
        (∀ c, ¬ spriteLights x y n s c → Display.cell t.disp c = Display.cell s.disp c) ∧
        ((∃ c, spriteLights x y n s c ∧ Display.cell s.disp c = true) → t.reg 15 = 1) ∧
        ((¬ ∃ c, spriteLights x y n s c ∧ Display.cell s.disp c = true) → t.reg 15 = 0) ∧
        (∀ j, j ≠ 15 → t.reg j = s.reg j) ∧ t = { s with v := t.v, disp := t.disp }) ∧
    (1 ≤ n.toNat → s.i.toNat + n.toNat - 1 > 0xFFF →
      exec (.drw x y n) s = .next { s with
        pc := s.pc - 2
        fault := some ⟨.memoryOutOfBounds, s.pc - 2, some (encode (.drw x y n)), max s.i.toNat 0x1000⟩
        phase := .halted })

/-! ## Control transfer (42_control_flow.md) -/

/-- R140: 00EE pops the return address into PC when SP > 0, and the entry stays; when SP = 0 it raises StackUnderflow,
with SP unchanged (the fault's entry is the spec's decision D5). -/
def Obligations.RetPopsTheReturnAddress : Prop :=
  ∀ s : State,
    (∀ k : RegIndex, s.sp.val = k.val + 1 →
      ∃ t, exec .ret s = .next t ∧ t.pc = s.stack[k] ∧ t.sp.val = k.val ∧ t = { s with pc := t.pc, sp := t.sp }) ∧
    (s.sp.val = 0 →
      exec .ret s = .next { s with
        pc := s.pc - 2, fault := some ⟨.stackUnderflow, s.pc - 2, some 0x00EE, 0⟩, phase := .halted })

/-- R141: 1NNN completes in every state and puts nnn, zero-extended, into PC. -/
def Obligations.JpSetsPc : Prop :=
  ∀ (s : State) (nnn : Addr), ∃ t, exec (.jp nnn) s = .next t ∧ t.pc.toNat = nnn.toNat ∧ t = { s with pc := t.pc }

/-- R142: 2NNN pushes the address after the call and jumps when SP < 16; when SP = 16 it raises StackOverflow, with the
stack, SP and PC unchanged (the fault's entry is the spec's decision D5). -/
def Obligations.CallPushesTheReturnAddress : Prop :=
  ∀ (s : State) (nnn : Addr),
    (∀ k : RegIndex, s.sp.val = k.val →
      ∃ t, exec (.call nnn) s = .next t ∧ t.pc.toNat = nnn.toNat ∧ t.sp.val = k.val + 1 ∧ t.stack[k] = s.pc ∧
        (∀ j : RegIndex, j ≠ k → t.stack[j] = s.stack[j]) ∧ t = { s with pc := t.pc, sp := t.sp, stack := t.stack }) ∧
    (s.sp.val = 16 →
      exec (.call nnn) s = .next { s with
        pc := s.pc - 2, fault := some ⟨.stackOverflow, s.pc - 2, some (encode (.call nnn)), 16⟩, phase := .halted })

/-- R143, R144, R105: 3XNN and 4XNN complete in every state; they add 2 to PC when V[x] is, or is not, kk, and change
nothing else. -/
def Obligations.SkipsOnAByte : Prop :=
  ∀ (s : State) (x : RegIndex) (kk : Byte),
    (∃ t, exec (.seByte x kk) s = .next t ∧ (s.reg x = kk → t.pc = s.pc + 2) ∧ (s.reg x ≠ kk → t.pc = s.pc) ∧
      t = { s with pc := t.pc }) ∧
    (∃ t, exec (.sneByte x kk) s = .next t ∧ (s.reg x ≠ kk → t.pc = s.pc + 2) ∧ (s.reg x = kk → t.pc = s.pc) ∧
      t = { s with pc := t.pc })

/-- R145, R146, R105: 5XY0 and 9XY0 complete in every state; they add 2 to PC when V[x] is, or is not, V[y], and change
nothing else. -/
def Obligations.SkipsOnARegister : Prop :=
  ∀ (s : State) (x y : RegIndex),
    (∃ t, exec (.seReg x y) s = .next t ∧ (s.reg x = s.reg y → t.pc = s.pc + 2) ∧ (s.reg x ≠ s.reg y → t.pc = s.pc) ∧
      t = { s with pc := t.pc }) ∧
    (∃ t, exec (.sneReg x y) s = .next t ∧ (s.reg x ≠ s.reg y → t.pc = s.pc + 2) ∧ (s.reg x = s.reg y → t.pc = s.pc) ∧
      t = { s with pc := t.pc })

/-- R142, R140: a return undoes a call: from any state of the callee that has the same stack and SP, 00EE puts the
address after the call into PC and restores SP. -/
def Obligations.RetUndoesCall : Prop :=
  ∀ (s t u : State) (nnn : Addr), s.sp.val < 16 → exec (.call nnn) s = .next t → u.stack = t.stack → u.sp = t.sp →
    ∃ r, exec .ret u = .next r ∧ r.pc = s.pc ∧ r.sp = s.sp ∧ r = { u with pc := r.pc, sp := r.sp }

/-! ## Register loads and ALU (43_alu.md) -/

/-- R162, R163: 6XNN loads kk; 7XNN adds it mod 256 and never writes a flag. Both complete in every state and change
only V[x]. -/
def Obligations.LoadAndAddByte : Prop :=
  ∀ (s : State) (x : RegIndex) (kk : Byte),
    (∃ t, exec (.ldByte x kk) s = .next t ∧ t.reg x = kk ∧ (∀ j, j ≠ x → t.reg j = s.reg j) ∧ t = { s with v := t.v }) ∧
    (∃ t, exec (.addByte x kk) s = .next t ∧ (t.reg x).toNat = ((s.reg x).toNat + kk.toNat) % 256 ∧
      (∀ j, j ≠ x → t.reg j = s.reg j) ∧ t = { s with v := t.v })

/-- R164-R167: 8XY0-8XY3 load, OR, AND and XOR. All complete in every state, change only V[x], and write no flag. -/
def Obligations.LoadAndLogicOnRegisters : Prop :=
  ∀ (s : State) (x y : RegIndex),
    (∃ t, exec (.ldReg x y) s = .next t ∧ t.reg x = s.reg y ∧ (∀ j, j ≠ x → t.reg j = s.reg j) ∧
      t = { s with v := t.v }) ∧
    (∃ t, exec (.orReg x y) s = .next t ∧ t.reg x = s.reg x ||| s.reg y ∧ (∀ j, j ≠ x → t.reg j = s.reg j) ∧
      t = { s with v := t.v }) ∧
    (∃ t, exec (.andReg x y) s = .next t ∧ t.reg x = s.reg x &&& s.reg y ∧ (∀ j, j ≠ x → t.reg j = s.reg j) ∧
      t = { s with v := t.v }) ∧
    (∃ t, exec (.xorReg x y) s = .next t ∧ t.reg x = s.reg x ^^^ s.reg y ∧ (∀ j, j ≠ x → t.reg j = s.reg j) ∧
      t = { s with v := t.v })

/-- R168, R161: 8XY4 completes in every state: V[x] is the sum mod 256, VF the carry, and the flag wins when x = F. -/
def Obligations.AddSetsCarry : Prop :=
  ∀ (s : State) (x y : RegIndex), ∃ t, exec (.addReg x y) s = .next t ∧
    (x ≠ 15 → (t.reg x).toNat = ((s.reg x).toNat + (s.reg y).toNat) % 256) ∧
    (t.reg 15).toNat = (if (s.reg x).toNat + (s.reg y).toNat > 255 then 1 else 0) ∧
    (∀ j, j ≠ x → j ≠ 15 → t.reg j = s.reg j) ∧ t = { s with v := t.v }

/-- R169, R161: 8XY5 completes in every state: V[x] is V[x] - V[y] mod 256, VF is 1 if V[x] >= V[y], and the flag wins
when x = F. -/
def Obligations.SubSetsNotBorrow : Prop :=
  ∀ (s : State) (x y : RegIndex), ∃ t, exec (.subReg x y) s = .next t ∧
    (x ≠ 15 → (t.reg x).toNat = ((s.reg x).toNat + 256 - (s.reg y).toNat) % 256) ∧
    (t.reg 15).toNat = (if (s.reg x).toNat ≥ (s.reg y).toNat then 1 else 0) ∧
    (∀ j, j ≠ x → j ≠ 15 → t.reg j = s.reg j) ∧ t = { s with v := t.v }

/-- R170, R161: 8XY6 completes in every state: V[x] is shifted right by one, VF is the bit shifted out, the flag wins
when x = F, and any y gives the same. -/
def Obligations.ShrSetsTheBitShiftedOut : Prop :=
  ∀ (s : State) (x y : RegIndex), ∃ t, exec (.shr x y) s = .next t ∧
    (x ≠ 15 → t.reg x = s.reg x >>> 1) ∧
    t.reg 15 = s.reg x &&& 1 ∧
    (∀ j, j ≠ x → j ≠ 15 → t.reg j = s.reg j) ∧ t = { s with v := t.v } ∧
    ∀ y', exec (.shr x y') s = .next t

/-- R171, R161: 8XY7 completes in every state: V[x] is V[y] - V[x] mod 256, VF is 1 if V[y] >= V[x], and the flag wins
when x = F. -/
def Obligations.SubnSetsNotBorrow : Prop :=
  ∀ (s : State) (x y : RegIndex), ∃ t, exec (.subnReg x y) s = .next t ∧
    (x ≠ 15 → (t.reg x).toNat = ((s.reg y).toNat + 256 - (s.reg x).toNat) % 256) ∧
    (t.reg 15).toNat = (if (s.reg y).toNat ≥ (s.reg x).toNat then 1 else 0) ∧
    (∀ j, j ≠ x → j ≠ 15 → t.reg j = s.reg j) ∧ t = { s with v := t.v }

/-- R172, R161: 8XYE completes in every state: V[x] is shifted left by one mod 256, VF is the bit shifted out, the flag
wins when x = F, and any y gives the same. -/
def Obligations.ShlSetsTheBitShiftedOut : Prop :=
  ∀ (s : State) (x y : RegIndex), ∃ t, exec (.shl x y) s = .next t ∧
    (x ≠ 15 → t.reg x = s.reg x <<< 1) ∧
    t.reg 15 = (s.reg x >>> 7) &&& 1 ∧
    (∀ j, j ≠ x → j ≠ 15 → t.reg j = s.reg j) ∧ t = { s with v := t.v } ∧
    ∀ y', exec (.shl x y') s = .next t

/-! ## Index register and memory (44_index_memory.md) -/

/-- R190: ANNN completes in every state and puts nnn, zero-extended, into I. -/
def Obligations.LdISetsIndex : Prop :=
  ∀ (s : State) (nnn : Addr), ∃ t, exec (.ldI nnn) s = .next t ∧ t.i.toNat = nnn.toNat ∧ t = { s with i := t.i }

/-- R191, with the spec's decision D8 on the wrap and VF: FX1E completes in every state, adds V[x] to I mod 65536, and
writes no flag. -/
def Obligations.AddIWrapsWithoutFlag : Prop :=
  ∀ (s : State) (x : RegIndex), ∃ t, exec (.addI x) s = .next t ∧
    t.i.toNat = (s.i.toNat + (s.reg x).toNat) % 65536 ∧ t = { s with i := t.i }

/-- R192: FX29 completes in every state and puts FONT_BASE + 5 * V[x] into I, the whole of V[x]; FONT_BASE is 0x050 in
this hardware, the spec's decision D11 (log entry 3). -/
def Obligations.LdFPointsAtTheGlyph : Prop :=
  paramsReset.fontBase = 0x050 ∧
  ∀ (s : State) (x : RegIndex), ∃ t, exec (.ldF x) s = .next t ∧
    t.i.toNat = s.params.fontBase.toNat + 5 * (s.reg x).toNat ∧ t = { s with i := t.i }

/-- R194, with the spec's decisions D5 and D6 for the fault: FX33 completes when I + 2 is at most 0xFFF and stores the
three decimal digits, hundreds lowest; no other byte and no other state changes. Otherwise it raises MemoryOutOfBounds
with no byte written. -/
def Obligations.LdBStoresTheDigits : Prop :=
  ∀ (s : State) (x : RegIndex),
    (s.memOk → s.i.toNat + 2 ≤ 0xFFF →
      ∃ t, exec (.ldB x) s = .next t ∧
        (t.byteAt s.i.toNat).toNat = (s.reg x).toNat / 100 ∧
        (t.byteAt (s.i.toNat + 1)).toNat = (s.reg x).toNat / 10 % 10 ∧
        (t.byteAt (s.i.toNat + 2)).toNat = (s.reg x).toNat % 10 ∧
        (∀ a, a < s.i.toNat ∨ s.i.toNat + 3 ≤ a → t.byteAt a = s.byteAt a) ∧ t = { s with mem := t.mem }) ∧
    (s.i.toNat + 2 > 0xFFF →
      exec (.ldB x) s = .next { s with
        pc := s.pc - 2
        fault := some ⟨.memoryOutOfBounds, s.pc - 2, some (encode (.ldB x)), max s.i.toNat 0x1000⟩
        phase := .halted })

/-- R195, with the spec's decisions D9 on I, and D5 and D6 for the fault: FX55 completes when I + x is at most 0xFFF and
stores V0..V[x] from I upward; I, and every other byte and state, stay. Otherwise it raises MemoryOutOfBounds with no
byte written. -/
def Obligations.RegisterDumpStoresV0ToVx : Prop :=
  ∀ (s : State) (x : RegIndex),
    (s.memOk → s.i.toNat + x.val ≤ 0xFFF →
      ∃ t, exec (.ldMemVx x) s = .next t ∧
        (∀ j, j ≤ x → t.byteAt (s.i.toNat + j.val) = s.reg j) ∧
        (∀ a, a < s.i.toNat ∨ s.i.toNat + x.val < a → t.byteAt a = s.byteAt a) ∧ t = { s with mem := t.mem }) ∧
    (s.i.toNat + x.val > 0xFFF →
      exec (.ldMemVx x) s = .next { s with
        pc := s.pc - 2
        fault := some ⟨.memoryOutOfBounds, s.pc - 2, some (encode (.ldMemVx x)), max s.i.toNat 0x1000⟩
        phase := .halted })

/-- R196, with the spec's decisions D9 on I, and D5 and D6 for the fault: FX65 completes when I + x is at most 0xFFF and
loads V0..V[x] from I upward; the registers above x, I and all else stay. Otherwise it raises MemoryOutOfBounds with no
register written. -/
def Obligations.RegisterLoadReadsV0ToVx : Prop :=
  ∀ (s : State) (x : RegIndex),
    (s.i.toNat + x.val ≤ 0xFFF →
      ∃ t, exec (.ldVxMem x) s = .next t ∧
        (∀ j, j ≤ x → t.reg j = s.byteAt (s.i.toNat + j.val)) ∧ (∀ j, x < j → t.reg j = s.reg j) ∧
        t = { s with v := t.v }) ∧
    (s.i.toNat + x.val > 0xFFF →
      exec (.ldVxMem x) s = .next { s with
        pc := s.pc - 2
        fault := some ⟨.memoryOutOfBounds, s.pc - 2, some (encode (.ldVxMem x)), max s.i.toNat 0x1000⟩
        phase := .halted })

/-- R197, derived by the spec with its decision D9: FX55 then FX65 with the same x and the same I restores V0..V[x],
whatever the registers held in between. -/
def Obligations.DumpThenLoadRestoresTheRegisters : Prop :=
  ∀ (s t u : State) (x : RegIndex), s.memOk → s.i.toNat + x.val ≤ 0xFFF → exec (.ldMemVx x) s = .next t →
    u.mem = t.mem → u.params = t.params → u.i = t.i →
    ∃ r, exec (.ldVxMem x) u = .next r ∧ ∀ j, j ≤ x → r.reg j = s.reg j

/-- R71, R291, derived by the spec: bytes FX55 stores are what a later fetch at their addresses reads. -/
def Obligations.FetchSeesStoredBytes : Prop :=
  ∀ (s t : State) (x j k : RegIndex) (a : Word), s.memOk → s.i.toNat + x.val ≤ 0xFFF → exec (.ldMemVx x) s = .next t →
    k ≤ x → k.val = j.val + 1 → a.toNat = s.i.toNat + j.val →
    ({ t with pc := a } : State).fetchWord = wordOfBytes (s.reg j) (s.reg k)

/-! ## Random, input and timers (45_random.md, 46_input.md, 47_timers.md) -/

/-- R211: CXNN completes in every state and puts a drawn byte ANDed with kk into V[x]; the draw is the next byte of the
random source, a free value (log entry 4), and one byte is consumed whatever kk is. -/
def Obligations.RndMasksTheDraw : Prop :=
  ∀ (s : State) (x : RegIndex) (kk : Byte), ∃ t, exec (.rnd x kk) s = .next t ∧
    t.reg x = Config.randomByte s.params.rngSeed s.rngDraws &&& kk ∧ t.rngDraws = s.rngDraws + 1 ∧
    (kk = 0 → t.reg x = 0) ∧ (∀ j, j ≠ x → t.reg j = s.reg j) ∧ t = { s with v := t.v, rngDraws := t.rngDraws }

/-- R215, R216, R217, with the spec's decisions D7 and D5 for the fault: EX9E and EXA1 complete when V[x] is a key code,
and skip when that key is, or is not, pressed; when V[x] is 16 or more they raise KeyOutOfRange with V[x]. -/
def Obligations.SkipsOnAKey : Prop :=
  ∀ (s : State) (x : RegIndex),
    (∀ k : RegIndex, (s.reg x).toNat = k.val →
      (∃ t, exec (.skp x) s = .next t ∧ (s.key[k] = true → t.pc = s.pc + 2) ∧ (s.key[k] = false → t.pc = s.pc) ∧
        t = { s with pc := t.pc }) ∧
      (∃ t, exec (.sknp x) s = .next t ∧ (s.key[k] = false → t.pc = s.pc + 2) ∧ (s.key[k] = true → t.pc = s.pc) ∧
        t = { s with pc := t.pc })) ∧
    (16 ≤ (s.reg x).toNat →
      exec (.skp x) s = .next { s with
        pc := s.pc - 2, fault := some ⟨.keyOutOfRange, s.pc - 2, some (encode (.skp x)), (s.reg x).toNat⟩,
        phase := .halted } ∧
      exec (.sknp x) s = .next { s with
        pc := s.pc - 2, fault := some ⟨.keyOutOfRange, s.pc - 2, some (encode (.sknp x)), (s.reg x).toNat⟩,
        phase := .halted })

/-- R221, R220, with the spec's decisions D3 and D28: FX0A completes in every state: with a key pressed it gives V[x]
the smallest pressed key at once; with none it enters blocked-on-key for V[x]. -/
def Obligations.WaitForKeyResolvesOrBlocks : Prop :=
  ∀ (s : State) (x : RegIndex),
    (∀ k : RegIndex, s.key[k] = true → (∀ j : RegIndex, j < k → s.key[j] = false) →
      ∃ t, exec (.ldVxK x) s = .next t ∧ (t.reg x).toNat = k.val ∧ (∀ j, j ≠ x → t.reg j = s.reg j) ∧
        t = { s with v := t.v }) ∧
    ((∀ k : RegIndex, s.key[k] = false) → exec (.ldVxK x) s = .next { s with wait := some x })

/-- R230, R231: FX07 reads DT into V[x] and FX15 writes V[x] to DT. Both complete in every state and change nothing
else. -/
def Obligations.DelayTimerReadAndWrite : Prop :=
  ∀ (s : State) (x : RegIndex),
    (∃ t, exec (.ldVxDt x) s = .next t ∧ t.reg x = s.dt ∧ (∀ j, j ≠ x → t.reg j = s.reg j) ∧ t = { s with v := t.v }) ∧
    (∃ t, exec (.ldDtVx x) s = .next t ∧ t.dt = s.reg x ∧ t.delayZero = decide (s.reg x = 0) ∧ t = { s with dt := t.dt })

/-- R232: FX18 completes in every state, writes V[x] to ST, and emits one tone event exactly if that changes
`tone_on`. -/
def Obligations.SoundTimerWriteNotifies : Prop :=
  ∀ (s : State) (x : RegIndex), ∃ t, exec (.ldStVx x) s = .next t ∧ t.st = s.reg x ∧
    (s.st = 0 → s.reg x ≠ 0 → t.toneOut = s.toneOut ++ [true]) ∧
    (s.st ≠ 0 → s.reg x = 0 → t.toneOut = s.toneOut ++ [false]) ∧
    ((s.st = 0 ↔ s.reg x = 0) → t.toneOut = s.toneOut) ∧ t = { s with st := t.st, toneOut := t.toneOut }

/-! ## Frames over all instructions -/

/-- R21, and R22, derived by the spec: an instruction changes no register but those the table lists for it; in
particular VF changes only as a flag of 8XY4-8XY7, 8XYE and DXYN or as an ordinary destination. -/
def Obligations.OnlyTabledRegistersChange : Prop :=
  ∀ (i : Instr) (s t : State) (j : RegIndex), exec i s = .next t → writesReg i j = false → t.reg j = s.reg j

/-- R62, R64, R194, R195: every byte of memory outside the bytes an instruction stores to reads as before; FX33 and FX55
store at the address in I, and no other instruction stores. -/
def Obligations.OnlyStoredBytesChange : Prop :=
  ∀ (i : Instr) (s t : State) (a : Nat), exec i s = .next t →
    (∀ b n, storeSpan i s = some (b, n) → a < b ∨ b + n ≤ a) → t.byteAt a = s.byteAt a

/-- R25, R26, R32-R36, R124, R210, R233: each piece of special state is changed only by the instructions named for it;
KEY, the parameters and the diag stream by none. That FX55 and FX65 leave I is the spec's decision D9, and that only
2NNN and 00EE touch the stack is its decision D24 (log entry 10); the streams, the parameters and the count of draws are
the model's own fields (log entries 3 to 5). -/
def Obligations.SpecialStateChangesOnlyWhereNamed : Prop :=
  ∀ (i : Instr) (s t : State), exec i s = .next t →
    ((∀ a x, i ≠ .ldI a ∧ i ≠ .addI x ∧ i ≠ .ldF x) → t.i = s.i) ∧
    ((∀ a, i ≠ .call a ∧ i ≠ .ret) → t.sp = s.sp) ∧
    ((∀ a, i ≠ .call a) → t.stack = s.stack) ∧
    ((∀ x, i ≠ .ldDtVx x) → t.dt = s.dt) ∧
    ((∀ x, i ≠ .ldStVx x) → t.st = s.st ∧ t.toneOut = s.toneOut) ∧
    ((∀ x y n, i ≠ .cls ∧ i ≠ .drw x y n) → t.disp = s.disp) ∧
    ((∀ x, i ≠ .ldVxK x) → t.wait = s.wait) ∧
    ((∀ x kk, i ≠ .rnd x kk) → t.rngDraws = s.rngDraws) ∧
    (faultCause i s = none → t.fault = s.fault ∧ t.phase = s.phase) ∧
    t.key = s.key ∧ t.params = s.params ∧ t.diagOut = s.diagOut

/-! ## What cannot be observed -/

/-- R27, with the spec's decision D24: the stack entries at and above SP cannot be observed: two states that differ only
there step to states that differ only there. -/
def Obligations.StackAboveSpIsUnobservable : Prop :=
  ∀ (s t : State) (entries : Vector Word 16), (∀ j : RegIndex, j.val < s.sp.val → entries[j] = s.stack[j]) →
    step s = .next t →
    ∃ u : Vector Word 16, step (s.setStack entries) = .next (t.setStack u) ∧
      ∀ j : RegIndex, j.val < t.sp.val → u[j] = t.stack[j]

/-- R246, R55: the output streams are not read: a step appends the same events whatever was emitted before, and the rest
of its result does not depend on them. -/
def Obligations.OutputStreamsAreNotRead : Prop :=
  ∀ s : State, ∃ t, step (s.setStreams [] []) = .next t ∧
    step s = .next (t.setStreams (s.diagOut ++ t.diagOut) (s.toneOut ++ t.toneOut))
end

