-- ==== Sys2Proof/Laws/Encoding.lean ====
section
/-! SUPPORT. Laws/Encoding.lean: the fields of a word and the three encoded layouts as naturals (30_encoding.md R81), what
the fields of an encoded word are, and that no instruction is ill-formed. -/

namespace Sys2Proof

/-- Operand types are the fields' widths, so the check refuses no instruction. -/
theorem Instr.wellFormed_all (i : Instr) : i.wellFormed = true := by
  cases i <;> simp [Instr.wellFormed] <;> omega

/-! ## Fields as naturals -/

theorem classField_eq (w : Word) : classField w = w.toNat / 4096 := by
  have := w.isLt
  simp [classField, BitVec.extractLsb'_toNat, Nat.shiftRight_eq_div_pow]; omega

theorem xField_val (w : Word) : (xField w).val = w.toNat / 256 % 16 := by
  simp [xField, Nat.shiftRight_eq_div_pow]

theorem yField_val (w : Word) : (yField w).val = w.toNat / 16 % 16 := by
  simp [yField, Nat.shiftRight_eq_div_pow]

theorem nField_toNat (w : Word) : (nField w).toNat = w.toNat % 16 := by
  simp [nField, BitVec.extractLsb'_toNat]

theorem nnField_toNat (w : Word) : (nnField w).toNat = w.toNat % 256 := by
  simp [nnField, BitVec.extractLsb'_toNat]

theorem nnnField_toNat (w : Word) : (nnnField w).toNat = w.toNat % 4096 := by
  simp [nnnField, BitVec.extractLsb'_toNat]

/-! ## Layouts as naturals -/

variable (c n : Nibble) (x y : RegIndex) (kk : Byte) (nnn : Addr)

theorem encodeXNN_toNat : (encodeXNN c x kk).toNat = c.toNat * 4096 + x.val * 256 + kk.toNat := by
  have hk : kk.toNat < 2 ^ 8 := kk.isLt
  have hx : x.val < 2 ^ 4 := x.isLt
  simp only [encodeXNN, regBits, BitVec.toNat_append, BitVec.toNat_ofFin]
  rw [← Nat.shiftLeft_add_eq_or_of_lt hx, ← Nat.shiftLeft_add_eq_or_of_lt hk]
  simp only [Nat.shiftLeft_eq]; omega

theorem encodeXYN_toNat :
    (encodeXYN c x y n).toNat = c.toNat * 4096 + x.val * 256 + y.val * 16 + n.toNat := by
  have hn : n.toNat < 2 ^ 4 := n.isLt
  have hx : x.val < 2 ^ 4 := x.isLt
  have hy : y.val < 2 ^ 4 := y.isLt
  simp only [encodeXYN, regBits, BitVec.toNat_append, BitVec.toNat_ofFin]
  rw [← Nat.shiftLeft_add_eq_or_of_lt hx, ← Nat.shiftLeft_add_eq_or_of_lt hy, ← Nat.shiftLeft_add_eq_or_of_lt hn]
  simp only [Nat.shiftLeft_eq]; omega

theorem encodeNNN_toNat : (encodeNNN c nnn).toNat = c.toNat * 4096 + nnn.toNat := by
  have hn : nnn.toNat < 2 ^ 12 := nnn.isLt
  simp only [encodeNNN, BitVec.toNat_append]
  rw [← Nat.shiftLeft_add_eq_or_of_lt hn, Nat.shiftLeft_eq]

/-! ## Fields of an encoded word -/

@[simp] theorem classField_encodeXNN : classField (encodeXNN c x kk) = c.toNat := by
  have := kk.isLt; have := x.isLt
  rw [classField_eq, encodeXNN_toNat]; omega

@[simp] theorem xField_encodeXNN : xField (encodeXNN c x kk) = x := by
  have := kk.isLt; have := x.isLt
  apply Fin.ext; rw [xField_val, encodeXNN_toNat]; omega

@[simp] theorem nnField_encodeXNN : nnField (encodeXNN c x kk) = kk := by
  have := kk.isLt
  apply BitVec.eq_of_toNat_eq; rw [nnField_toNat, encodeXNN_toNat]; omega

@[simp] theorem classField_encodeXYN : classField (encodeXYN c x y n) = c.toNat := by
  have := n.isLt; have := x.isLt; have := y.isLt
  rw [classField_eq, encodeXYN_toNat]; omega

@[simp] theorem xField_encodeXYN : xField (encodeXYN c x y n) = x := by
  have := n.isLt; have := x.isLt; have := y.isLt
  apply Fin.ext; rw [xField_val, encodeXYN_toNat]; omega

@[simp] theorem yField_encodeXYN : yField (encodeXYN c x y n) = y := by
  have := n.isLt; have := y.isLt
  apply Fin.ext; rw [yField_val, encodeXYN_toNat]; omega

@[simp] theorem nField_encodeXYN : nField (encodeXYN c x y n) = n := by
  have := n.isLt
  apply BitVec.eq_of_toNat_eq; rw [nField_toNat, encodeXYN_toNat]; omega

@[simp] theorem classField_encodeNNN : classField (encodeNNN c nnn) = c.toNat := by
  have := nnn.isLt
  rw [classField_eq, encodeNNN_toNat]; omega

@[simp] theorem nnnField_encodeNNN : nnnField (encodeNNN c nnn) = nnn := by
  have := nnn.isLt
  apply BitVec.eq_of_toNat_eq; rw [nnnField_toNat, encodeNNN_toNat]; omega

/-! ## A word and its fields -/

/-- A word is its class, X and NN. -/
theorem encodeXNN_fields (w : Word) (h : classField w = c.toNat) : encodeXNN c (xField w) (nnField w) = w := by
  have := w.isLt
  apply BitVec.eq_of_toNat_eq
  rw [encodeXNN_toNat, xField_val, nnField_toNat, ← h, classField_eq]; omega

/-- A word is its class, X, Y and N. -/
theorem encodeXYN_fields (w : Word) (h : classField w = c.toNat) :
    encodeXYN c (xField w) (yField w) (nField w) = w := by
  have := w.isLt
  apply BitVec.eq_of_toNat_eq
  rw [encodeXYN_toNat, xField_val, yField_val, nField_toNat, ← h, classField_eq]; omega

/-- A word is its class and NNN. -/
theorem encodeNNN_fields (w : Word) (h : classField w = c.toNat) : encodeNNN c (nnnField w) = w := by
  have := w.isLt
  apply BitVec.eq_of_toNat_eq
  rw [encodeNNN_toNat, nnnField_toNat, ← h, classField_eq]; omega

/-! ## Bytes -/

theorem wordOfBytes_toNat (high low : Byte) : (wordOfBytes high low).toNat = high.toNat * 256 + low.toNat := by
  have hl : low.toNat < 2 ^ 8 := low.isLt
  simp only [wordOfBytes, BitVec.toNat_append]
  rw [← Nat.shiftLeft_add_eq_or_of_lt hl, Nat.shiftLeft_eq]

theorem highByte_toNat (w : Word) : (highByte w).toNat = w.toNat / 256 := by
  have := w.isLt
  simp [highByte, BitVec.extractLsb'_toNat, Nat.shiftRight_eq_div_pow]; omega

theorem lowByte_toNat (w : Word) : (lowByte w).toNat = w.toNat % 256 := by
  simp [lowByte, BitVec.extractLsb'_toNat]

/-- A word's two bytes give it back. -/
@[simp] theorem wordOfBytes_bytes (w : Word) : wordOfBytes (highByte w) (lowByte w) = w := by
  apply BitVec.eq_of_toNat_eq
  rw [wordOfBytes_toNat, highByte_toNat, lowByte_toNat]; omega

end Sys2Proof
end

