-- ==== Sys2Proof/Laws/Memory.lean ====
section
/-! SUPPORT. Laws/Memory.lean: read after write, what a write leaves alone, and that every memory operation keeps the
canonical form (20_memory.md R63, R64, R69). -/

namespace Sys2Proof.Machine

open Sys2Proof.Config (Params)

variable {p : Params} {m : Memory} {a x : Nat} {b : Byte}

/-! ## Reset contents (R31, R39) -/

theorem resetByte_font (j : Fin 80) (h : p.fontBase.toNat + j.val ≤ Config.lastAddr) :
    resetByte p (p.fontBase.toNat + j.val) = p.fontData[j] := by
  unfold resetByte
  rw [dif_pos ⟨by omega, by omega, h⟩]
  simp

theorem resetByte_other (h : a < p.fontBase.toNat ∨ p.fontBase.toNat + 80 ≤ a) : resetByte p a = 0 :=
  dif_neg (by omega)

/-- Where the list names nothing, every byte has its reset value. -/
theorem Memory.read_nil : Memory.read p [] a = resetByte p a := rfl

/-! ## One cell -/

theorem Memory.lookup_put : Memory.lookup (Memory.put a b m) x = if x = a then some b else Memory.lookup m x := by
  induction m with
  | nil => by_cases h : x = a <;> simp [put, lookup, h, eq_comm (a := a)]
  | cons c m ih =>
    unfold put
    split
    · by_cases h : x = a <;> simp [lookup, h, eq_comm (a := a)]
    · split
      next e => by_cases h : x = a <;> simp [lookup, h, ← e, eq_comm (a := a)]
      next hne =>
        by_cases hc : c.1 = x
        · simp [lookup, hc, show x ≠ a by omega]
        · simp only [lookup, if_neg hc, ih]

theorem Memory.lookup_drop_ne (h : x ≠ a) : Memory.lookup (Memory.drop a m) x = Memory.lookup m x := by
  induction m with
  | nil => rfl
  | cons c m ih =>
    unfold drop
    split
    · simp only [lookup]; split
      · omega
      · rfl
    · simp only [lookup, ih]

theorem Memory.lookup_eq_none_of_lt (h : ∀ c ∈ m, a < c.1) : Memory.lookup m a = none := by
  induction m with
  | nil => rfl
  | cons c m ih =>
    have := h c (by simp)
    simp only [lookup]
    rw [if_neg (by omega), ih fun d hd => h d (by simp [hd])]

theorem Memory.lookup_drop_self (h : m.Pairwise (fun c d => c.1 < d.1)) :
    Memory.lookup (Memory.drop a m) a = none := by
  induction m with
  | nil => rfl
  | cons c m ih =>
    obtain ⟨hc, hm⟩ := List.pairwise_cons.1 h
    unfold drop
    split
    next e => exact lookup_eq_none_of_lt fun d hd => e ▸ hc d hd
    next e => simp only [lookup, if_neg e, ih hm]

/-- Every address but the one written reads as before. -/
theorem Memory.read_write_ne (h : x ≠ a) : Memory.read p (Memory.write p m a b) x = Memory.read p m x := by
  unfold write read
  split
  · rfl
  · split
    · rw [lookup_drop_ne h]
    · rw [lookup_put, if_neg h]

/-- A byte written is read back. -/
theorem Memory.read_write_self (hm : Memory.wf p m) (ha : a ≤ Config.lastAddr) :
    Memory.read p (Memory.write p m a b) a = b := by
  unfold write read
  rw [if_neg (by omega)]
  split
  next e => rw [lookup_drop_self hm.1]; exact e.symm
  · rw [lookup_put, if_pos rfl]; rfl

/-! ## The canonical form -/

theorem Memory.mem_put {c : Host.Cell} (h : c ∈ Memory.put a b m) : c = (a, b) ∨ c ∈ m := by
  induction m with
  | nil => simpa [put] using h
  | cons d m ih =>
    unfold put at h
    split at h
    · simpa using h
    · split at h
      · rcases List.mem_cons.1 h with h | h <;> simp [h]
      · rcases List.mem_cons.1 h with h | h
        · simp [h]
        · rcases ih h with h | h <;> simp [h]

theorem Memory.mem_drop {c : Host.Cell} (h : c ∈ Memory.drop a m) : c ∈ m := by
  induction m with
  | nil => simp [drop] at h
  | cons d m ih =>
    unfold drop at h
    split at h
    · simp [h]
    · rcases List.mem_cons.1 h with h | h
      · simp [h]
      · simp [ih h]

theorem Memory.pairwise_put (h : m.Pairwise (fun c d => c.1 < d.1)) :
    (Memory.put a b m).Pairwise (fun c d => c.1 < d.1) := by
  induction m with
  | nil => simp [put]
  | cons c m ih =>
    obtain ⟨hc, hm⟩ := List.pairwise_cons.1 h
    unfold put
    split
    next hlt =>
      refine List.pairwise_cons.2 ⟨fun d hd => ?_, h⟩
      rcases List.mem_cons.1 hd with rfl | hd
      · exact hlt
      · exact Nat.lt_trans hlt (hc d hd)
    · split
      next e => exact List.pairwise_cons.2 ⟨fun d hd => e ▸ hc d hd, hm⟩
      next hne =>
        refine List.pairwise_cons.2 ⟨fun d hd => ?_, ih hm⟩
        rcases mem_put hd with rfl | hd
        · show c.1 < a; omega
        · exact hc d hd

theorem Memory.pairwise_drop (h : m.Pairwise (fun c d => c.1 < d.1)) :
    (Memory.drop a m).Pairwise (fun c d => c.1 < d.1) := by
  induction m with
  | nil => exact h
  | cons c m ih =>
    obtain ⟨hc, hm⟩ := List.pairwise_cons.1 h
    unfold drop
    split
    · exact hm
    · exact List.pairwise_cons.2 ⟨fun d hd => hc d (mem_drop hd), ih hm⟩

theorem Memory.write_wf (h : Memory.wf p m) : Memory.wf p (Memory.write p m a b) := by
  unfold write
  split
  · exact h
  · split
    · exact ⟨pairwise_drop h.1, fun c hc => h.2 c (mem_drop hc)⟩
    next ha hb =>
      refine ⟨pairwise_put h.1, fun c hc => ?_⟩
      rcases mem_put hc with rfl | hc
      · exact ⟨by omega, hb⟩
      · exact h.2 c hc

theorem Memory.writeBytes_wf {bs : List Byte} (h : Memory.wf p m) : Memory.wf p (Memory.writeBytes p m a bs) := by
  induction bs generalizing m a with
  | nil => exact h
  | cons b bs ih => exact ih (write_wf h)

/-! ## Consecutive bytes -/

/-- Addresses outside the stored bytes read as before. -/
theorem Memory.read_writeBytes_outside {bs : List Byte} (h : x < a ∨ a + bs.length ≤ x) :
    Memory.read p (Memory.writeBytes p m a bs) x = Memory.read p m x := by
  induction bs generalizing m a with
  | nil => rfl
  | cons b bs ih =>
    simp only [List.length_cons] at h
    unfold writeBytes
    rw [ih (by omega), read_write_ne (by omega)]

/-- Stored bytes are read back, the lowest address first. -/
theorem Memory.read_writeBytes_inside {bs : List Byte} (hm : Memory.wf p m) (k : Nat) (hk : k < bs.length)
    (ha : a + k ≤ Config.lastAddr) : Memory.read p (Memory.writeBytes p m a bs) (a + k) = bs[k] := by
  induction bs generalizing m a k with
  | nil => simp at hk
  | cons b bs ih =>
    unfold writeBytes
    cases k with
    | zero => rw [read_writeBytes_outside (by omega)]; exact read_write_self hm ha
    | succ k =>
      have := ih (m := write p m a b) (a := a + 1) (write_wf hm) k (by simpa using hk) (by omega)
      rw [show a + (k + 1) = a + 1 + k by omega, this]
      rfl

/-! ## The range check (R65) -/

theorem checkRange_eq_none {base len : Nat} :
    checkRange base len = none ↔ (1 ≤ len → base + len - 1 ≤ Config.lastAddr) := by
  unfold checkRange
  split <;> simp <;> omega

theorem checkRange_eq_some {base len n : Nat} :
    checkRange base len = some n ↔
      1 ≤ len ∧ base + len - 1 > Config.lastAddr ∧ n = max base Config.memSize := by
  unfold checkRange
  split
  next h => simp only [Option.some.injEq]; constructor
            · rintro rfl; exact ⟨h.1, h.2, rfl⟩
            · exact fun h => h.2.2.symm
  next h => simp only [reduceCtorEq, false_iff]; rintro ⟨h1, h2, -⟩; exact h ⟨h1, h2⟩

/-- R63 and R64 check one byte: the offending address is the address itself. -/
theorem checkRange_one {base : Nat} : checkRange base 1 = if base > Config.lastAddr then some base else none := by
  unfold checkRange Config.lastAddr Config.memSize
  split <;> split <;> first | rfl | omega | (simp only [Option.some.injEq]; omega)

theorem State.readBytes_length (s : State) (base len : Nat) : (s.readBytes base len).length = len := by
  simp [State.readBytes]

theorem State.readBytes_getElem (s : State) (base len k : Nat) (h : k < (s.readBytes base len).length) :
    (s.readBytes base len)[k] = s.byteAt (base + k) := by
  simp [State.readBytes]

end Sys2Proof.Machine
end

