-- ==== Sys2Proof/Laws/State.lean ====
section
/-! SUPPORT. Laws/State.lean: what each update of the state leaves in each field and what the accessors then read, each true
by rfl, so that no proof unfolds an update. -/

namespace Sys2Proof.Machine

section setRegs

variable (s : State) (a : Vector Byte 16)

@[simp] theorem State.setRegs_v : (s.setRegs a).v = a := rfl
@[simp] theorem State.setRegs_pc : (s.setRegs a).pc = s.pc := rfl
@[simp] theorem State.setRegs_i : (s.setRegs a).i = s.i := rfl
@[simp] theorem State.setRegs_sp : (s.setRegs a).sp = s.sp := rfl
@[simp] theorem State.setRegs_stack : (s.setRegs a).stack = s.stack := rfl
@[simp] theorem State.setRegs_dt : (s.setRegs a).dt = s.dt := rfl
@[simp] theorem State.setRegs_st : (s.setRegs a).st = s.st := rfl
@[simp] theorem State.setRegs_mem : (s.setRegs a).mem = s.mem := rfl
@[simp] theorem State.setRegs_disp : (s.setRegs a).disp = s.disp := rfl
@[simp] theorem State.setRegs_key : (s.setRegs a).key = s.key := rfl
@[simp] theorem State.setRegs_wait : (s.setRegs a).wait = s.wait := rfl
@[simp] theorem State.setRegs_fault : (s.setRegs a).fault = s.fault := rfl
@[simp] theorem State.setRegs_phase : (s.setRegs a).phase = s.phase := rfl
@[simp] theorem State.setRegs_diagOut : (s.setRegs a).diagOut = s.diagOut := rfl
@[simp] theorem State.setRegs_toneOut : (s.setRegs a).toneOut = s.toneOut := rfl
@[simp] theorem State.setRegs_rngDraws : (s.setRegs a).rngDraws = s.rngDraws := rfl
@[simp] theorem State.setRegs_params : (s.setRegs a).params = s.params := rfl
@[simp] theorem State.setRegs_byteAt (m : Nat) : (s.setRegs a).byteAt m = s.byteAt m := rfl
@[simp] theorem State.setRegs_pressed (j : RegIndex) : (s.setRegs a).pressed j = s.pressed j := rfl

end setRegs

section setPc

variable (s : State) (a : Word)

@[simp] theorem State.setPc_v : (s.setPc a).v = s.v := rfl
@[simp] theorem State.setPc_pc : (s.setPc a).pc = a := rfl
@[simp] theorem State.setPc_i : (s.setPc a).i = s.i := rfl
@[simp] theorem State.setPc_sp : (s.setPc a).sp = s.sp := rfl
@[simp] theorem State.setPc_stack : (s.setPc a).stack = s.stack := rfl
@[simp] theorem State.setPc_dt : (s.setPc a).dt = s.dt := rfl
@[simp] theorem State.setPc_st : (s.setPc a).st = s.st := rfl
@[simp] theorem State.setPc_mem : (s.setPc a).mem = s.mem := rfl
@[simp] theorem State.setPc_disp : (s.setPc a).disp = s.disp := rfl
@[simp] theorem State.setPc_key : (s.setPc a).key = s.key := rfl
@[simp] theorem State.setPc_wait : (s.setPc a).wait = s.wait := rfl
@[simp] theorem State.setPc_fault : (s.setPc a).fault = s.fault := rfl
@[simp] theorem State.setPc_phase : (s.setPc a).phase = s.phase := rfl
@[simp] theorem State.setPc_diagOut : (s.setPc a).diagOut = s.diagOut := rfl
@[simp] theorem State.setPc_toneOut : (s.setPc a).toneOut = s.toneOut := rfl
@[simp] theorem State.setPc_rngDraws : (s.setPc a).rngDraws = s.rngDraws := rfl
@[simp] theorem State.setPc_params : (s.setPc a).params = s.params := rfl
@[simp] theorem State.setPc_reg (y : RegIndex) : (s.setPc a).reg y = s.reg y := rfl
@[simp] theorem State.setPc_byteAt (m : Nat) : (s.setPc a).byteAt m = s.byteAt m := rfl
@[simp] theorem State.setPc_pressed (j : RegIndex) : (s.setPc a).pressed j = s.pressed j := rfl

end setPc

section setI

variable (s : State) (a : Word)

@[simp] theorem State.setI_v : (s.setI a).v = s.v := rfl
@[simp] theorem State.setI_pc : (s.setI a).pc = s.pc := rfl
@[simp] theorem State.setI_i : (s.setI a).i = a := rfl
@[simp] theorem State.setI_sp : (s.setI a).sp = s.sp := rfl
@[simp] theorem State.setI_stack : (s.setI a).stack = s.stack := rfl
@[simp] theorem State.setI_dt : (s.setI a).dt = s.dt := rfl
@[simp] theorem State.setI_st : (s.setI a).st = s.st := rfl
@[simp] theorem State.setI_mem : (s.setI a).mem = s.mem := rfl
@[simp] theorem State.setI_disp : (s.setI a).disp = s.disp := rfl
@[simp] theorem State.setI_key : (s.setI a).key = s.key := rfl
@[simp] theorem State.setI_wait : (s.setI a).wait = s.wait := rfl
@[simp] theorem State.setI_fault : (s.setI a).fault = s.fault := rfl
@[simp] theorem State.setI_phase : (s.setI a).phase = s.phase := rfl
@[simp] theorem State.setI_diagOut : (s.setI a).diagOut = s.diagOut := rfl
@[simp] theorem State.setI_toneOut : (s.setI a).toneOut = s.toneOut := rfl
@[simp] theorem State.setI_rngDraws : (s.setI a).rngDraws = s.rngDraws := rfl
@[simp] theorem State.setI_params : (s.setI a).params = s.params := rfl
@[simp] theorem State.setI_reg (y : RegIndex) : (s.setI a).reg y = s.reg y := rfl
@[simp] theorem State.setI_byteAt (m : Nat) : (s.setI a).byteAt m = s.byteAt m := rfl
@[simp] theorem State.setI_pressed (j : RegIndex) : (s.setI a).pressed j = s.pressed j := rfl

end setI

section setSp

variable (s : State) (a : Fin 17)

@[simp] theorem State.setSp_v : (s.setSp a).v = s.v := rfl
@[simp] theorem State.setSp_pc : (s.setSp a).pc = s.pc := rfl
@[simp] theorem State.setSp_i : (s.setSp a).i = s.i := rfl
@[simp] theorem State.setSp_sp : (s.setSp a).sp = a := rfl
@[simp] theorem State.setSp_stack : (s.setSp a).stack = s.stack := rfl
@[simp] theorem State.setSp_dt : (s.setSp a).dt = s.dt := rfl
@[simp] theorem State.setSp_st : (s.setSp a).st = s.st := rfl
@[simp] theorem State.setSp_mem : (s.setSp a).mem = s.mem := rfl
@[simp] theorem State.setSp_disp : (s.setSp a).disp = s.disp := rfl
@[simp] theorem State.setSp_key : (s.setSp a).key = s.key := rfl
@[simp] theorem State.setSp_wait : (s.setSp a).wait = s.wait := rfl
@[simp] theorem State.setSp_fault : (s.setSp a).fault = s.fault := rfl
@[simp] theorem State.setSp_phase : (s.setSp a).phase = s.phase := rfl
@[simp] theorem State.setSp_diagOut : (s.setSp a).diagOut = s.diagOut := rfl
@[simp] theorem State.setSp_toneOut : (s.setSp a).toneOut = s.toneOut := rfl
@[simp] theorem State.setSp_rngDraws : (s.setSp a).rngDraws = s.rngDraws := rfl
@[simp] theorem State.setSp_params : (s.setSp a).params = s.params := rfl
@[simp] theorem State.setSp_reg (y : RegIndex) : (s.setSp a).reg y = s.reg y := rfl
@[simp] theorem State.setSp_byteAt (m : Nat) : (s.setSp a).byteAt m = s.byteAt m := rfl
@[simp] theorem State.setSp_pressed (j : RegIndex) : (s.setSp a).pressed j = s.pressed j := rfl

end setSp

section setStack

variable (s : State) (a : Vector Word 16)

@[simp] theorem State.setStack_v : (s.setStack a).v = s.v := rfl
@[simp] theorem State.setStack_pc : (s.setStack a).pc = s.pc := rfl
@[simp] theorem State.setStack_i : (s.setStack a).i = s.i := rfl
@[simp] theorem State.setStack_sp : (s.setStack a).sp = s.sp := rfl
@[simp] theorem State.setStack_stack : (s.setStack a).stack = a := rfl
@[simp] theorem State.setStack_dt : (s.setStack a).dt = s.dt := rfl
@[simp] theorem State.setStack_st : (s.setStack a).st = s.st := rfl
@[simp] theorem State.setStack_mem : (s.setStack a).mem = s.mem := rfl
@[simp] theorem State.setStack_disp : (s.setStack a).disp = s.disp := rfl
@[simp] theorem State.setStack_key : (s.setStack a).key = s.key := rfl
@[simp] theorem State.setStack_wait : (s.setStack a).wait = s.wait := rfl
@[simp] theorem State.setStack_fault : (s.setStack a).fault = s.fault := rfl
@[simp] theorem State.setStack_phase : (s.setStack a).phase = s.phase := rfl
@[simp] theorem State.setStack_diagOut : (s.setStack a).diagOut = s.diagOut := rfl
@[simp] theorem State.setStack_toneOut : (s.setStack a).toneOut = s.toneOut := rfl
@[simp] theorem State.setStack_rngDraws : (s.setStack a).rngDraws = s.rngDraws := rfl
@[simp] theorem State.setStack_params : (s.setStack a).params = s.params := rfl
@[simp] theorem State.setStack_reg (y : RegIndex) : (s.setStack a).reg y = s.reg y := rfl
@[simp] theorem State.setStack_byteAt (m : Nat) : (s.setStack a).byteAt m = s.byteAt m := rfl
@[simp] theorem State.setStack_pressed (j : RegIndex) : (s.setStack a).pressed j = s.pressed j := rfl

end setStack

section setDt

variable (s : State) (a : Byte)

@[simp] theorem State.setDt_v : (s.setDt a).v = s.v := rfl
@[simp] theorem State.setDt_pc : (s.setDt a).pc = s.pc := rfl
@[simp] theorem State.setDt_i : (s.setDt a).i = s.i := rfl
@[simp] theorem State.setDt_sp : (s.setDt a).sp = s.sp := rfl
@[simp] theorem State.setDt_stack : (s.setDt a).stack = s.stack := rfl
@[simp] theorem State.setDt_dt : (s.setDt a).dt = a := rfl
@[simp] theorem State.setDt_st : (s.setDt a).st = s.st := rfl
@[simp] theorem State.setDt_mem : (s.setDt a).mem = s.mem := rfl
@[simp] theorem State.setDt_disp : (s.setDt a).disp = s.disp := rfl
@[simp] theorem State.setDt_key : (s.setDt a).key = s.key := rfl
@[simp] theorem State.setDt_wait : (s.setDt a).wait = s.wait := rfl
@[simp] theorem State.setDt_fault : (s.setDt a).fault = s.fault := rfl
@[simp] theorem State.setDt_phase : (s.setDt a).phase = s.phase := rfl
@[simp] theorem State.setDt_diagOut : (s.setDt a).diagOut = s.diagOut := rfl
@[simp] theorem State.setDt_toneOut : (s.setDt a).toneOut = s.toneOut := rfl
@[simp] theorem State.setDt_rngDraws : (s.setDt a).rngDraws = s.rngDraws := rfl
@[simp] theorem State.setDt_params : (s.setDt a).params = s.params := rfl
@[simp] theorem State.setDt_reg (y : RegIndex) : (s.setDt a).reg y = s.reg y := rfl
@[simp] theorem State.setDt_byteAt (m : Nat) : (s.setDt a).byteAt m = s.byteAt m := rfl
@[simp] theorem State.setDt_pressed (j : RegIndex) : (s.setDt a).pressed j = s.pressed j := rfl

end setDt

section setSt

variable (s : State) (a : Byte)

@[simp] theorem State.setSt_v : (s.setSt a).v = s.v := rfl
@[simp] theorem State.setSt_pc : (s.setSt a).pc = s.pc := rfl
@[simp] theorem State.setSt_i : (s.setSt a).i = s.i := rfl
@[simp] theorem State.setSt_sp : (s.setSt a).sp = s.sp := rfl
@[simp] theorem State.setSt_stack : (s.setSt a).stack = s.stack := rfl
@[simp] theorem State.setSt_dt : (s.setSt a).dt = s.dt := rfl
@[simp] theorem State.setSt_st : (s.setSt a).st = a := rfl
@[simp] theorem State.setSt_mem : (s.setSt a).mem = s.mem := rfl
@[simp] theorem State.setSt_disp : (s.setSt a).disp = s.disp := rfl
@[simp] theorem State.setSt_key : (s.setSt a).key = s.key := rfl
@[simp] theorem State.setSt_wait : (s.setSt a).wait = s.wait := rfl
@[simp] theorem State.setSt_fault : (s.setSt a).fault = s.fault := rfl
@[simp] theorem State.setSt_phase : (s.setSt a).phase = s.phase := rfl
@[simp] theorem State.setSt_diagOut : (s.setSt a).diagOut = s.diagOut := rfl
@[simp] theorem State.setSt_toneOut : (s.setSt a).toneOut = s.toneOut := rfl
@[simp] theorem State.setSt_rngDraws : (s.setSt a).rngDraws = s.rngDraws := rfl
@[simp] theorem State.setSt_params : (s.setSt a).params = s.params := rfl
@[simp] theorem State.setSt_reg (y : RegIndex) : (s.setSt a).reg y = s.reg y := rfl
@[simp] theorem State.setSt_byteAt (m : Nat) : (s.setSt a).byteAt m = s.byteAt m := rfl
@[simp] theorem State.setSt_pressed (j : RegIndex) : (s.setSt a).pressed j = s.pressed j := rfl

end setSt

section setMem

variable (s : State) (a : Memory)

@[simp] theorem State.setMem_v : (s.setMem a).v = s.v := rfl
@[simp] theorem State.setMem_pc : (s.setMem a).pc = s.pc := rfl
@[simp] theorem State.setMem_i : (s.setMem a).i = s.i := rfl
@[simp] theorem State.setMem_sp : (s.setMem a).sp = s.sp := rfl
@[simp] theorem State.setMem_stack : (s.setMem a).stack = s.stack := rfl
@[simp] theorem State.setMem_dt : (s.setMem a).dt = s.dt := rfl
@[simp] theorem State.setMem_st : (s.setMem a).st = s.st := rfl
@[simp] theorem State.setMem_mem : (s.setMem a).mem = a := rfl
@[simp] theorem State.setMem_disp : (s.setMem a).disp = s.disp := rfl
@[simp] theorem State.setMem_key : (s.setMem a).key = s.key := rfl
@[simp] theorem State.setMem_wait : (s.setMem a).wait = s.wait := rfl
@[simp] theorem State.setMem_fault : (s.setMem a).fault = s.fault := rfl
@[simp] theorem State.setMem_phase : (s.setMem a).phase = s.phase := rfl
@[simp] theorem State.setMem_diagOut : (s.setMem a).diagOut = s.diagOut := rfl
@[simp] theorem State.setMem_toneOut : (s.setMem a).toneOut = s.toneOut := rfl
@[simp] theorem State.setMem_rngDraws : (s.setMem a).rngDraws = s.rngDraws := rfl
@[simp] theorem State.setMem_params : (s.setMem a).params = s.params := rfl
@[simp] theorem State.setMem_reg (y : RegIndex) : (s.setMem a).reg y = s.reg y := rfl
@[simp] theorem State.setMem_pressed (j : RegIndex) : (s.setMem a).pressed j = s.pressed j := rfl

end setMem

section setDisp

variable (s : State) (a : Display)

@[simp] theorem State.setDisp_v : (s.setDisp a).v = s.v := rfl
@[simp] theorem State.setDisp_pc : (s.setDisp a).pc = s.pc := rfl
@[simp] theorem State.setDisp_i : (s.setDisp a).i = s.i := rfl
@[simp] theorem State.setDisp_sp : (s.setDisp a).sp = s.sp := rfl
@[simp] theorem State.setDisp_stack : (s.setDisp a).stack = s.stack := rfl
@[simp] theorem State.setDisp_dt : (s.setDisp a).dt = s.dt := rfl
@[simp] theorem State.setDisp_st : (s.setDisp a).st = s.st := rfl
@[simp] theorem State.setDisp_mem : (s.setDisp a).mem = s.mem := rfl
@[simp] theorem State.setDisp_disp : (s.setDisp a).disp = a := rfl
@[simp] theorem State.setDisp_key : (s.setDisp a).key = s.key := rfl
@[simp] theorem State.setDisp_wait : (s.setDisp a).wait = s.wait := rfl
@[simp] theorem State.setDisp_fault : (s.setDisp a).fault = s.fault := rfl
@[simp] theorem State.setDisp_phase : (s.setDisp a).phase = s.phase := rfl
@[simp] theorem State.setDisp_diagOut : (s.setDisp a).diagOut = s.diagOut := rfl
@[simp] theorem State.setDisp_toneOut : (s.setDisp a).toneOut = s.toneOut := rfl
@[simp] theorem State.setDisp_rngDraws : (s.setDisp a).rngDraws = s.rngDraws := rfl
@[simp] theorem State.setDisp_params : (s.setDisp a).params = s.params := rfl
@[simp] theorem State.setDisp_reg (y : RegIndex) : (s.setDisp a).reg y = s.reg y := rfl
@[simp] theorem State.setDisp_byteAt (m : Nat) : (s.setDisp a).byteAt m = s.byteAt m := rfl
@[simp] theorem State.setDisp_pressed (j : RegIndex) : (s.setDisp a).pressed j = s.pressed j := rfl

end setDisp

section setKey

variable (s : State) (a : Keys)

@[simp] theorem State.setKey_v : (s.setKey a).v = s.v := rfl
@[simp] theorem State.setKey_pc : (s.setKey a).pc = s.pc := rfl
@[simp] theorem State.setKey_i : (s.setKey a).i = s.i := rfl
@[simp] theorem State.setKey_sp : (s.setKey a).sp = s.sp := rfl
@[simp] theorem State.setKey_stack : (s.setKey a).stack = s.stack := rfl
@[simp] theorem State.setKey_dt : (s.setKey a).dt = s.dt := rfl
@[simp] theorem State.setKey_st : (s.setKey a).st = s.st := rfl
@[simp] theorem State.setKey_mem : (s.setKey a).mem = s.mem := rfl
@[simp] theorem State.setKey_disp : (s.setKey a).disp = s.disp := rfl
@[simp] theorem State.setKey_key : (s.setKey a).key = a := rfl
@[simp] theorem State.setKey_wait : (s.setKey a).wait = s.wait := rfl
@[simp] theorem State.setKey_fault : (s.setKey a).fault = s.fault := rfl
@[simp] theorem State.setKey_phase : (s.setKey a).phase = s.phase := rfl
@[simp] theorem State.setKey_diagOut : (s.setKey a).diagOut = s.diagOut := rfl
@[simp] theorem State.setKey_toneOut : (s.setKey a).toneOut = s.toneOut := rfl
@[simp] theorem State.setKey_rngDraws : (s.setKey a).rngDraws = s.rngDraws := rfl
@[simp] theorem State.setKey_params : (s.setKey a).params = s.params := rfl
@[simp] theorem State.setKey_reg (y : RegIndex) : (s.setKey a).reg y = s.reg y := rfl
@[simp] theorem State.setKey_byteAt (m : Nat) : (s.setKey a).byteAt m = s.byteAt m := rfl

end setKey

section setWait

variable (s : State) (a : Option RegIndex)

@[simp] theorem State.setWait_v : (s.setWait a).v = s.v := rfl
@[simp] theorem State.setWait_pc : (s.setWait a).pc = s.pc := rfl
@[simp] theorem State.setWait_i : (s.setWait a).i = s.i := rfl
@[simp] theorem State.setWait_sp : (s.setWait a).sp = s.sp := rfl
@[simp] theorem State.setWait_stack : (s.setWait a).stack = s.stack := rfl
@[simp] theorem State.setWait_dt : (s.setWait a).dt = s.dt := rfl
@[simp] theorem State.setWait_st : (s.setWait a).st = s.st := rfl
@[simp] theorem State.setWait_mem : (s.setWait a).mem = s.mem := rfl
@[simp] theorem State.setWait_disp : (s.setWait a).disp = s.disp := rfl
@[simp] theorem State.setWait_key : (s.setWait a).key = s.key := rfl
@[simp] theorem State.setWait_wait : (s.setWait a).wait = a := rfl
@[simp] theorem State.setWait_fault : (s.setWait a).fault = s.fault := rfl
@[simp] theorem State.setWait_phase : (s.setWait a).phase = s.phase := rfl
@[simp] theorem State.setWait_diagOut : (s.setWait a).diagOut = s.diagOut := rfl
@[simp] theorem State.setWait_toneOut : (s.setWait a).toneOut = s.toneOut := rfl
@[simp] theorem State.setWait_rngDraws : (s.setWait a).rngDraws = s.rngDraws := rfl
@[simp] theorem State.setWait_params : (s.setWait a).params = s.params := rfl
@[simp] theorem State.setWait_reg (y : RegIndex) : (s.setWait a).reg y = s.reg y := rfl
@[simp] theorem State.setWait_byteAt (m : Nat) : (s.setWait a).byteAt m = s.byteAt m := rfl
@[simp] theorem State.setWait_pressed (j : RegIndex) : (s.setWait a).pressed j = s.pressed j := rfl

end setWait

section setFault

variable (s : State) (a : Option FaultRecord)

@[simp] theorem State.setFault_v : (s.setFault a).v = s.v := rfl
@[simp] theorem State.setFault_pc : (s.setFault a).pc = s.pc := rfl
@[simp] theorem State.setFault_i : (s.setFault a).i = s.i := rfl
@[simp] theorem State.setFault_sp : (s.setFault a).sp = s.sp := rfl
@[simp] theorem State.setFault_stack : (s.setFault a).stack = s.stack := rfl
@[simp] theorem State.setFault_dt : (s.setFault a).dt = s.dt := rfl
@[simp] theorem State.setFault_st : (s.setFault a).st = s.st := rfl
@[simp] theorem State.setFault_mem : (s.setFault a).mem = s.mem := rfl
@[simp] theorem State.setFault_disp : (s.setFault a).disp = s.disp := rfl
@[simp] theorem State.setFault_key : (s.setFault a).key = s.key := rfl
@[simp] theorem State.setFault_wait : (s.setFault a).wait = s.wait := rfl
@[simp] theorem State.setFault_fault : (s.setFault a).fault = a := rfl
@[simp] theorem State.setFault_phase : (s.setFault a).phase = s.phase := rfl
@[simp] theorem State.setFault_diagOut : (s.setFault a).diagOut = s.diagOut := rfl
@[simp] theorem State.setFault_toneOut : (s.setFault a).toneOut = s.toneOut := rfl
@[simp] theorem State.setFault_rngDraws : (s.setFault a).rngDraws = s.rngDraws := rfl
@[simp] theorem State.setFault_params : (s.setFault a).params = s.params := rfl
@[simp] theorem State.setFault_reg (y : RegIndex) : (s.setFault a).reg y = s.reg y := rfl
@[simp] theorem State.setFault_byteAt (m : Nat) : (s.setFault a).byteAt m = s.byteAt m := rfl
@[simp] theorem State.setFault_pressed (j : RegIndex) : (s.setFault a).pressed j = s.pressed j := rfl

end setFault

section setPhase

variable (s : State) (a : Phase)

@[simp] theorem State.setPhase_v : (s.setPhase a).v = s.v := rfl
@[simp] theorem State.setPhase_pc : (s.setPhase a).pc = s.pc := rfl
@[simp] theorem State.setPhase_i : (s.setPhase a).i = s.i := rfl
@[simp] theorem State.setPhase_sp : (s.setPhase a).sp = s.sp := rfl
@[simp] theorem State.setPhase_stack : (s.setPhase a).stack = s.stack := rfl
@[simp] theorem State.setPhase_dt : (s.setPhase a).dt = s.dt := rfl
@[simp] theorem State.setPhase_st : (s.setPhase a).st = s.st := rfl
@[simp] theorem State.setPhase_mem : (s.setPhase a).mem = s.mem := rfl
@[simp] theorem State.setPhase_disp : (s.setPhase a).disp = s.disp := rfl
@[simp] theorem State.setPhase_key : (s.setPhase a).key = s.key := rfl
@[simp] theorem State.setPhase_wait : (s.setPhase a).wait = s.wait := rfl
@[simp] theorem State.setPhase_fault : (s.setPhase a).fault = s.fault := rfl
@[simp] theorem State.setPhase_phase : (s.setPhase a).phase = a := rfl
@[simp] theorem State.setPhase_diagOut : (s.setPhase a).diagOut = s.diagOut := rfl
@[simp] theorem State.setPhase_toneOut : (s.setPhase a).toneOut = s.toneOut := rfl
@[simp] theorem State.setPhase_rngDraws : (s.setPhase a).rngDraws = s.rngDraws := rfl
@[simp] theorem State.setPhase_params : (s.setPhase a).params = s.params := rfl
@[simp] theorem State.setPhase_reg (y : RegIndex) : (s.setPhase a).reg y = s.reg y := rfl
@[simp] theorem State.setPhase_byteAt (m : Nat) : (s.setPhase a).byteAt m = s.byteAt m := rfl
@[simp] theorem State.setPhase_pressed (j : RegIndex) : (s.setPhase a).pressed j = s.pressed j := rfl

end setPhase

section emitDiag

variable (s : State) (a : DiagEvent)

@[simp] theorem State.emitDiag_v : (s.emitDiag a).v = s.v := rfl
@[simp] theorem State.emitDiag_pc : (s.emitDiag a).pc = s.pc := rfl
@[simp] theorem State.emitDiag_i : (s.emitDiag a).i = s.i := rfl
@[simp] theorem State.emitDiag_sp : (s.emitDiag a).sp = s.sp := rfl
@[simp] theorem State.emitDiag_stack : (s.emitDiag a).stack = s.stack := rfl
@[simp] theorem State.emitDiag_dt : (s.emitDiag a).dt = s.dt := rfl
@[simp] theorem State.emitDiag_st : (s.emitDiag a).st = s.st := rfl
@[simp] theorem State.emitDiag_mem : (s.emitDiag a).mem = s.mem := rfl
@[simp] theorem State.emitDiag_disp : (s.emitDiag a).disp = s.disp := rfl
@[simp] theorem State.emitDiag_key : (s.emitDiag a).key = s.key := rfl
@[simp] theorem State.emitDiag_wait : (s.emitDiag a).wait = s.wait := rfl
@[simp] theorem State.emitDiag_fault : (s.emitDiag a).fault = s.fault := rfl
@[simp] theorem State.emitDiag_phase : (s.emitDiag a).phase = s.phase := rfl
@[simp] theorem State.emitDiag_diagOut : (s.emitDiag a).diagOut = s.diagOut ++ [a] := rfl
@[simp] theorem State.emitDiag_toneOut : (s.emitDiag a).toneOut = s.toneOut := rfl
@[simp] theorem State.emitDiag_rngDraws : (s.emitDiag a).rngDraws = s.rngDraws := rfl
@[simp] theorem State.emitDiag_params : (s.emitDiag a).params = s.params := rfl
@[simp] theorem State.emitDiag_reg (y : RegIndex) : (s.emitDiag a).reg y = s.reg y := rfl
@[simp] theorem State.emitDiag_byteAt (m : Nat) : (s.emitDiag a).byteAt m = s.byteAt m := rfl
@[simp] theorem State.emitDiag_pressed (j : RegIndex) : (s.emitDiag a).pressed j = s.pressed j := rfl

end emitDiag

section emitTone

variable (s : State) (a : Bool)

@[simp] theorem State.emitTone_v : (s.emitTone a).v = s.v := rfl
@[simp] theorem State.emitTone_pc : (s.emitTone a).pc = s.pc := rfl
@[simp] theorem State.emitTone_i : (s.emitTone a).i = s.i := rfl
@[simp] theorem State.emitTone_sp : (s.emitTone a).sp = s.sp := rfl
@[simp] theorem State.emitTone_stack : (s.emitTone a).stack = s.stack := rfl
@[simp] theorem State.emitTone_dt : (s.emitTone a).dt = s.dt := rfl
@[simp] theorem State.emitTone_st : (s.emitTone a).st = s.st := rfl
@[simp] theorem State.emitTone_mem : (s.emitTone a).mem = s.mem := rfl
@[simp] theorem State.emitTone_disp : (s.emitTone a).disp = s.disp := rfl
@[simp] theorem State.emitTone_key : (s.emitTone a).key = s.key := rfl
@[simp] theorem State.emitTone_wait : (s.emitTone a).wait = s.wait := rfl
@[simp] theorem State.emitTone_fault : (s.emitTone a).fault = s.fault := rfl
@[simp] theorem State.emitTone_phase : (s.emitTone a).phase = s.phase := rfl
@[simp] theorem State.emitTone_diagOut : (s.emitTone a).diagOut = s.diagOut := rfl
@[simp] theorem State.emitTone_toneOut : (s.emitTone a).toneOut = s.toneOut ++ [a] := rfl
@[simp] theorem State.emitTone_rngDraws : (s.emitTone a).rngDraws = s.rngDraws := rfl
@[simp] theorem State.emitTone_params : (s.emitTone a).params = s.params := rfl
@[simp] theorem State.emitTone_reg (y : RegIndex) : (s.emitTone a).reg y = s.reg y := rfl
@[simp] theorem State.emitTone_byteAt (m : Nat) : (s.emitTone a).byteAt m = s.byteAt m := rfl
@[simp] theorem State.emitTone_pressed (j : RegIndex) : (s.emitTone a).pressed j = s.pressed j := rfl

end emitTone

section countDraw

variable (s : State)

@[simp] theorem State.countDraw_v : (s.countDraw).v = s.v := rfl
@[simp] theorem State.countDraw_pc : (s.countDraw).pc = s.pc := rfl
@[simp] theorem State.countDraw_i : (s.countDraw).i = s.i := rfl
@[simp] theorem State.countDraw_sp : (s.countDraw).sp = s.sp := rfl
@[simp] theorem State.countDraw_stack : (s.countDraw).stack = s.stack := rfl
@[simp] theorem State.countDraw_dt : (s.countDraw).dt = s.dt := rfl
@[simp] theorem State.countDraw_st : (s.countDraw).st = s.st := rfl
@[simp] theorem State.countDraw_mem : (s.countDraw).mem = s.mem := rfl
@[simp] theorem State.countDraw_disp : (s.countDraw).disp = s.disp := rfl
@[simp] theorem State.countDraw_key : (s.countDraw).key = s.key := rfl
@[simp] theorem State.countDraw_wait : (s.countDraw).wait = s.wait := rfl
@[simp] theorem State.countDraw_fault : (s.countDraw).fault = s.fault := rfl
@[simp] theorem State.countDraw_phase : (s.countDraw).phase = s.phase := rfl
@[simp] theorem State.countDraw_diagOut : (s.countDraw).diagOut = s.diagOut := rfl
@[simp] theorem State.countDraw_toneOut : (s.countDraw).toneOut = s.toneOut := rfl
@[simp] theorem State.countDraw_rngDraws : (s.countDraw).rngDraws = s.rngDraws + 1 := rfl
@[simp] theorem State.countDraw_params : (s.countDraw).params = s.params := rfl
@[simp] theorem State.countDraw_reg (y : RegIndex) : (s.countDraw).reg y = s.reg y := rfl
@[simp] theorem State.countDraw_byteAt (m : Nat) : (s.countDraw).byteAt m = s.byteAt m := rfl
@[simp] theorem State.countDraw_pressed (j : RegIndex) : (s.countDraw).pressed j = s.pressed j := rfl

end countDraw

section setReg

variable (s : State) (x : RegIndex) (b : Byte)

@[simp] theorem State.setReg_v : (s.setReg x b).v = s.v.set x b := rfl
@[simp] theorem State.setReg_pc : (s.setReg x b).pc = s.pc := rfl
@[simp] theorem State.setReg_i : (s.setReg x b).i = s.i := rfl
@[simp] theorem State.setReg_sp : (s.setReg x b).sp = s.sp := rfl
@[simp] theorem State.setReg_stack : (s.setReg x b).stack = s.stack := rfl
@[simp] theorem State.setReg_dt : (s.setReg x b).dt = s.dt := rfl
@[simp] theorem State.setReg_st : (s.setReg x b).st = s.st := rfl
@[simp] theorem State.setReg_mem : (s.setReg x b).mem = s.mem := rfl
@[simp] theorem State.setReg_disp : (s.setReg x b).disp = s.disp := rfl
@[simp] theorem State.setReg_key : (s.setReg x b).key = s.key := rfl
@[simp] theorem State.setReg_wait : (s.setReg x b).wait = s.wait := rfl
@[simp] theorem State.setReg_fault : (s.setReg x b).fault = s.fault := rfl
@[simp] theorem State.setReg_phase : (s.setReg x b).phase = s.phase := rfl
@[simp] theorem State.setReg_diagOut : (s.setReg x b).diagOut = s.diagOut := rfl
@[simp] theorem State.setReg_toneOut : (s.setReg x b).toneOut = s.toneOut := rfl
@[simp] theorem State.setReg_rngDraws : (s.setReg x b).rngDraws = s.rngDraws := rfl
@[simp] theorem State.setReg_params : (s.setReg x b).params = s.params := rfl
@[simp] theorem State.setReg_byteAt (m : Nat) : (s.setReg x b).byteAt m = s.byteAt m := rfl
@[simp] theorem State.setReg_pressed (j : RegIndex) : (s.setReg x b).pressed j = s.pressed j := rfl

end setReg

section setFlag

variable (s : State) (b : Byte)

@[simp] theorem State.setFlag_v : (s.setFlag b).v = s.v.set flagReg b := rfl
@[simp] theorem State.setFlag_pc : (s.setFlag b).pc = s.pc := rfl
@[simp] theorem State.setFlag_i : (s.setFlag b).i = s.i := rfl
@[simp] theorem State.setFlag_sp : (s.setFlag b).sp = s.sp := rfl
@[simp] theorem State.setFlag_stack : (s.setFlag b).stack = s.stack := rfl
@[simp] theorem State.setFlag_dt : (s.setFlag b).dt = s.dt := rfl
@[simp] theorem State.setFlag_st : (s.setFlag b).st = s.st := rfl
@[simp] theorem State.setFlag_mem : (s.setFlag b).mem = s.mem := rfl
@[simp] theorem State.setFlag_disp : (s.setFlag b).disp = s.disp := rfl
@[simp] theorem State.setFlag_key : (s.setFlag b).key = s.key := rfl
@[simp] theorem State.setFlag_wait : (s.setFlag b).wait = s.wait := rfl
@[simp] theorem State.setFlag_fault : (s.setFlag b).fault = s.fault := rfl
@[simp] theorem State.setFlag_phase : (s.setFlag b).phase = s.phase := rfl
@[simp] theorem State.setFlag_diagOut : (s.setFlag b).diagOut = s.diagOut := rfl
@[simp] theorem State.setFlag_toneOut : (s.setFlag b).toneOut = s.toneOut := rfl
@[simp] theorem State.setFlag_rngDraws : (s.setFlag b).rngDraws = s.rngDraws := rfl
@[simp] theorem State.setFlag_params : (s.setFlag b).params = s.params := rfl
@[simp] theorem State.setFlag_byteAt (m : Nat) : (s.setFlag b).byteAt m = s.byteAt m := rfl
@[simp] theorem State.setFlag_pressed (j : RegIndex) : (s.setFlag b).pressed j = s.pressed j := rfl

end setFlag

section setRegFlag

variable (s : State) (x : RegIndex) (b f : Byte)

@[simp] theorem State.setRegFlag_v : (s.setRegFlag x b f).v = (s.v.set x b).set flagReg f := rfl
@[simp] theorem State.setRegFlag_pc : (s.setRegFlag x b f).pc = s.pc := rfl
@[simp] theorem State.setRegFlag_i : (s.setRegFlag x b f).i = s.i := rfl
@[simp] theorem State.setRegFlag_sp : (s.setRegFlag x b f).sp = s.sp := rfl
@[simp] theorem State.setRegFlag_stack : (s.setRegFlag x b f).stack = s.stack := rfl
@[simp] theorem State.setRegFlag_dt : (s.setRegFlag x b f).dt = s.dt := rfl
@[simp] theorem State.setRegFlag_st : (s.setRegFlag x b f).st = s.st := rfl
@[simp] theorem State.setRegFlag_mem : (s.setRegFlag x b f).mem = s.mem := rfl
@[simp] theorem State.setRegFlag_disp : (s.setRegFlag x b f).disp = s.disp := rfl
@[simp] theorem State.setRegFlag_key : (s.setRegFlag x b f).key = s.key := rfl
@[simp] theorem State.setRegFlag_wait : (s.setRegFlag x b f).wait = s.wait := rfl
@[simp] theorem State.setRegFlag_fault : (s.setRegFlag x b f).fault = s.fault := rfl
@[simp] theorem State.setRegFlag_phase : (s.setRegFlag x b f).phase = s.phase := rfl
@[simp] theorem State.setRegFlag_diagOut : (s.setRegFlag x b f).diagOut = s.diagOut := rfl
@[simp] theorem State.setRegFlag_toneOut : (s.setRegFlag x b f).toneOut = s.toneOut := rfl
@[simp] theorem State.setRegFlag_rngDraws : (s.setRegFlag x b f).rngDraws = s.rngDraws := rfl
@[simp] theorem State.setRegFlag_params : (s.setRegFlag x b f).params = s.params := rfl
@[simp] theorem State.setRegFlag_byteAt (m : Nat) : (s.setRegFlag x b f).byteAt m = s.byteAt m := rfl
@[simp] theorem State.setRegFlag_pressed (j : RegIndex) : (s.setRegFlag x b f).pressed j = s.pressed j := rfl

end setRegFlag

section advance

variable (s : State)

@[simp] theorem State.advance_v : (s.advance).v = s.v := rfl
@[simp] theorem State.advance_pc : (s.advance).pc = s.pc + 2 := rfl
@[simp] theorem State.advance_i : (s.advance).i = s.i := rfl
@[simp] theorem State.advance_sp : (s.advance).sp = s.sp := rfl
@[simp] theorem State.advance_stack : (s.advance).stack = s.stack := rfl
@[simp] theorem State.advance_dt : (s.advance).dt = s.dt := rfl
@[simp] theorem State.advance_st : (s.advance).st = s.st := rfl
@[simp] theorem State.advance_mem : (s.advance).mem = s.mem := rfl
@[simp] theorem State.advance_disp : (s.advance).disp = s.disp := rfl
@[simp] theorem State.advance_key : (s.advance).key = s.key := rfl
@[simp] theorem State.advance_wait : (s.advance).wait = s.wait := rfl
@[simp] theorem State.advance_fault : (s.advance).fault = s.fault := rfl
@[simp] theorem State.advance_phase : (s.advance).phase = s.phase := rfl
@[simp] theorem State.advance_diagOut : (s.advance).diagOut = s.diagOut := rfl
@[simp] theorem State.advance_toneOut : (s.advance).toneOut = s.toneOut := rfl
@[simp] theorem State.advance_rngDraws : (s.advance).rngDraws = s.rngDraws := rfl
@[simp] theorem State.advance_params : (s.advance).params = s.params := rfl
@[simp] theorem State.advance_reg (y : RegIndex) : (s.advance).reg y = s.reg y := rfl
@[simp] theorem State.advance_byteAt (m : Nat) : (s.advance).byteAt m = s.byteAt m := rfl
@[simp] theorem State.advance_pressed (j : RegIndex) : (s.advance).pressed j = s.pressed j := rfl

end advance

section storeBytes

variable (s : State) (n : Nat) (bs : List Byte)

@[simp] theorem State.storeBytes_v : (s.storeBytes n bs).v = s.v := rfl
@[simp] theorem State.storeBytes_pc : (s.storeBytes n bs).pc = s.pc := rfl
@[simp] theorem State.storeBytes_i : (s.storeBytes n bs).i = s.i := rfl
@[simp] theorem State.storeBytes_sp : (s.storeBytes n bs).sp = s.sp := rfl
@[simp] theorem State.storeBytes_stack : (s.storeBytes n bs).stack = s.stack := rfl
@[simp] theorem State.storeBytes_dt : (s.storeBytes n bs).dt = s.dt := rfl
@[simp] theorem State.storeBytes_st : (s.storeBytes n bs).st = s.st := rfl
@[simp] theorem State.storeBytes_mem : (s.storeBytes n bs).mem = Memory.writeBytes s.params s.mem n bs := rfl
@[simp] theorem State.storeBytes_disp : (s.storeBytes n bs).disp = s.disp := rfl
@[simp] theorem State.storeBytes_key : (s.storeBytes n bs).key = s.key := rfl
@[simp] theorem State.storeBytes_wait : (s.storeBytes n bs).wait = s.wait := rfl
@[simp] theorem State.storeBytes_fault : (s.storeBytes n bs).fault = s.fault := rfl
@[simp] theorem State.storeBytes_phase : (s.storeBytes n bs).phase = s.phase := rfl
@[simp] theorem State.storeBytes_diagOut : (s.storeBytes n bs).diagOut = s.diagOut := rfl
@[simp] theorem State.storeBytes_toneOut : (s.storeBytes n bs).toneOut = s.toneOut := rfl
@[simp] theorem State.storeBytes_rngDraws : (s.storeBytes n bs).rngDraws = s.rngDraws := rfl
@[simp] theorem State.storeBytes_params : (s.storeBytes n bs).params = s.params := rfl
@[simp] theorem State.storeBytes_reg (y : RegIndex) : (s.storeBytes n bs).reg y = s.reg y := rfl
@[simp] theorem State.storeBytes_pressed (j : RegIndex) : (s.storeBytes n bs).pressed j = s.pressed j := rfl

end storeBytes

section enterFault

variable (s : State) (a : Word) (w : Option Word) (k : Fault) (n : Nat)

@[simp] theorem State.enterFault_v : (s.enterFault a w k n).v = s.v := rfl
@[simp] theorem State.enterFault_pc : (s.enterFault a w k n).pc = a := rfl
@[simp] theorem State.enterFault_i : (s.enterFault a w k n).i = s.i := rfl
@[simp] theorem State.enterFault_sp : (s.enterFault a w k n).sp = s.sp := rfl
@[simp] theorem State.enterFault_stack : (s.enterFault a w k n).stack = s.stack := rfl
@[simp] theorem State.enterFault_dt : (s.enterFault a w k n).dt = s.dt := rfl
@[simp] theorem State.enterFault_st : (s.enterFault a w k n).st = s.st := rfl
@[simp] theorem State.enterFault_mem : (s.enterFault a w k n).mem = s.mem := rfl
@[simp] theorem State.enterFault_disp : (s.enterFault a w k n).disp = s.disp := rfl
@[simp] theorem State.enterFault_key : (s.enterFault a w k n).key = s.key := rfl
@[simp] theorem State.enterFault_wait : (s.enterFault a w k n).wait = s.wait := rfl
@[simp] theorem State.enterFault_fault : (s.enterFault a w k n).fault = some ⟨k, a, w, n⟩ := rfl
@[simp] theorem State.enterFault_phase : (s.enterFault a w k n).phase = .halted := rfl
@[simp] theorem State.enterFault_diagOut : (s.enterFault a w k n).diagOut = s.diagOut := rfl
@[simp] theorem State.enterFault_toneOut : (s.enterFault a w k n).toneOut = s.toneOut := rfl
@[simp] theorem State.enterFault_rngDraws : (s.enterFault a w k n).rngDraws = s.rngDraws := rfl
@[simp] theorem State.enterFault_params : (s.enterFault a w k n).params = s.params := rfl
@[simp] theorem State.enterFault_reg (y : RegIndex) : (s.enterFault a w k n).reg y = s.reg y := rfl
@[simp] theorem State.enterFault_byteAt (m : Nat) : (s.enterFault a w k n).byteAt m = s.byteAt m := rfl
@[simp] theorem State.enterFault_pressed (j : RegIndex) : (s.enterFault a w k n).pressed j = s.pressed j := rfl

end enterFault

section loadRegs

variable (s : State) (x : RegIndex) (n : Nat)

theorem State.loadRegs_eq :
    s.loadRegs x n = s.setRegs (Vector.ofFn fun j => if j ≤ x then s.byteAt (n + j.val) else s.reg j) := rfl

@[simp] theorem State.loadRegs_pc : (s.loadRegs x n).pc = s.pc := State.setRegs_pc s _
@[simp] theorem State.loadRegs_i : (s.loadRegs x n).i = s.i := State.setRegs_i s _
@[simp] theorem State.loadRegs_sp : (s.loadRegs x n).sp = s.sp := State.setRegs_sp s _
@[simp] theorem State.loadRegs_stack : (s.loadRegs x n).stack = s.stack := State.setRegs_stack s _
@[simp] theorem State.loadRegs_dt : (s.loadRegs x n).dt = s.dt := State.setRegs_dt s _
@[simp] theorem State.loadRegs_st : (s.loadRegs x n).st = s.st := State.setRegs_st s _
@[simp] theorem State.loadRegs_mem : (s.loadRegs x n).mem = s.mem := State.setRegs_mem s _
@[simp] theorem State.loadRegs_disp : (s.loadRegs x n).disp = s.disp := State.setRegs_disp s _
@[simp] theorem State.loadRegs_key : (s.loadRegs x n).key = s.key := State.setRegs_key s _
@[simp] theorem State.loadRegs_wait : (s.loadRegs x n).wait = s.wait := State.setRegs_wait s _
@[simp] theorem State.loadRegs_fault : (s.loadRegs x n).fault = s.fault := State.setRegs_fault s _
@[simp] theorem State.loadRegs_phase : (s.loadRegs x n).phase = s.phase := State.setRegs_phase s _
@[simp] theorem State.loadRegs_diagOut : (s.loadRegs x n).diagOut = s.diagOut := State.setRegs_diagOut s _
@[simp] theorem State.loadRegs_toneOut : (s.loadRegs x n).toneOut = s.toneOut := State.setRegs_toneOut s _
@[simp] theorem State.loadRegs_rngDraws : (s.loadRegs x n).rngDraws = s.rngDraws := State.setRegs_rngDraws s _
@[simp] theorem State.loadRegs_params : (s.loadRegs x n).params = s.params := State.setRegs_params s _
@[simp] theorem State.loadRegs_byteAt (m : Nat) : (s.loadRegs x n).byteAt m = s.byteAt m := State.setRegs_byteAt s _ m

end loadRegs

section drawSprite

variable (s : State) (vx vy : Byte) (rows : List Byte)

@[simp] theorem State.drawSprite_pc : (s.drawSprite vx vy rows).pc = s.pc := rfl
@[simp] theorem State.drawSprite_i : (s.drawSprite vx vy rows).i = s.i := rfl
@[simp] theorem State.drawSprite_sp : (s.drawSprite vx vy rows).sp = s.sp := rfl
@[simp] theorem State.drawSprite_stack : (s.drawSprite vx vy rows).stack = s.stack := rfl
@[simp] theorem State.drawSprite_dt : (s.drawSprite vx vy rows).dt = s.dt := rfl
@[simp] theorem State.drawSprite_st : (s.drawSprite vx vy rows).st = s.st := rfl
@[simp] theorem State.drawSprite_mem : (s.drawSprite vx vy rows).mem = s.mem := rfl
@[simp] theorem State.drawSprite_key : (s.drawSprite vx vy rows).key = s.key := rfl
@[simp] theorem State.drawSprite_wait : (s.drawSprite vx vy rows).wait = s.wait := rfl
@[simp] theorem State.drawSprite_fault : (s.drawSprite vx vy rows).fault = s.fault := rfl
@[simp] theorem State.drawSprite_phase : (s.drawSprite vx vy rows).phase = s.phase := rfl
@[simp] theorem State.drawSprite_diagOut : (s.drawSprite vx vy rows).diagOut = s.diagOut := rfl
@[simp] theorem State.drawSprite_toneOut : (s.drawSprite vx vy rows).toneOut = s.toneOut := rfl
@[simp] theorem State.drawSprite_rngDraws : (s.drawSprite vx vy rows).rngDraws = s.rngDraws := rfl
@[simp] theorem State.drawSprite_params : (s.drawSprite vx vy rows).params = s.params := rfl
@[simp] theorem State.drawSprite_byteAt (m : Nat) : (s.drawSprite vx vy rows).byteAt m = s.byteAt m := rfl

end drawSprite

end Sys2Proof.Machine
end

