-- ==== Sys2Proof/Laws/Ops.lean ====
section
/-! SUPPORT. Laws/Ops.lean: one lemma for each shared operation that says everything it can do. -/

namespace Sys2Proof.Machine

variable {s t : State} {x y : RegIndex} {b f : Byte}

/-! ## Registers -/

@[simp] theorem State.setReg_reg : (s.setReg x b).reg y = if y = x then b else s.reg y := by
  simp only [State.reg, State.setReg_v, Fin.getElem_fin, Vector.getElem_set]
  by_cases h : y = x
  · simp [h]
  · rw [if_neg (fun e => h (Fin.ext e.symm)), if_neg h]

@[simp] theorem State.setFlag_reg : (s.setFlag f).reg y = if y = flagReg then f else s.reg y := State.setReg_reg

/-- The flag wins when x = F (R161). -/
@[simp] theorem State.setRegFlag_reg :
    (s.setRegFlag x b f).reg y = if y = flagReg then f else if y = x then b else s.reg y := by
  simp [State.setRegFlag]

/-- R196: the registers up to x from memory, the others kept. -/
@[simp] theorem State.loadRegs_reg {a : Nat} :
    (s.loadRegs x a).reg y = if y ≤ x then s.byteAt (a + y.val) else s.reg y := by
  simp [State.loadRegs, State.reg]

theorem State.regsUpTo_length : (s.regsUpTo x).length = x.val + 1 := by
  simp [State.regsUpTo]

theorem State.regsUpTo_getElem (k : Nat) (h : k < (s.regsUpTo x).length) :
    (s.regsUpTo x)[k] = s.reg ⟨k, by have := State.regsUpTo_length (s := s) (x := x); omega⟩ := by
  simp [State.regsUpTo, State.reg]

/-! ## Stores -/

/-- Stored bytes are read back. -/
theorem State.storeBytes_byteAt_inside {a : Nat} {bs : List Byte} (hm : Memory.wf s.params s.mem) (k : Nat)
    (hk : k < bs.length) (ha : a + k ≤ Config.lastAddr) : (s.storeBytes a bs).byteAt (a + k) = bs[k] :=
  Memory.read_writeBytes_inside hm k hk ha

/-- Every other byte reads as before. -/
theorem State.storeBytes_byteAt_outside {a n : Nat} {bs : List Byte} (h : n < a ∨ a + bs.length ≤ n) :
    (s.storeBytes a bs).byteAt n = s.byteAt n :=
  Memory.read_writeBytes_outside h

/-! ## Skips -/

@[simp] theorem State.skipIf_true : s.skipIf true = s.advance := rfl

@[simp] theorem State.skipIf_false : s.skipIf false = s := rfl

/-- A skip changes PC only, by 0 or 2 (R105). -/
theorem State.skipIf_eq (c : Bool) : s.skipIf c = s.setPc (if c then s.pc + 2 else s.pc) := by
  cases c <;> rfl

/-! ## Stack (R27) -/

theorem State.push_of_lt {a : Word} (h : s.sp.val < 16) :
    s.push a = some ((s.setStack (s.stack.set s.sp.val a)).setSp ⟨s.sp.val + 1, by omega⟩) := dif_pos h

theorem State.push_of_full {a : Word} (h : s.sp.val = 16) : s.push a = none := dif_neg (by omega)

theorem State.pop_of_pos (h : 0 < s.sp.val) :
    s.pop = some (s.stack[s.sp.val - 1], s.setSp ⟨s.sp.val - 1, by omega⟩) := dif_pos h

theorem State.pop_of_empty (h : s.sp.val = 0) : s.pop = none := dif_neg (by omega)

/-! ## Faults (R65, R241) -/

theorem State.inRange_of_none {i : Instr} {base len : Nat} (h : checkRange base len = none) :
    s.inRange i base len t = .next t := by
  simp [State.inRange, h]

theorem State.inRange_of_some {i : Instr} {base len n : Nat} (h : checkRange base len = some n) :
    s.inRange i base len t = s.raise i .memoryOutOfBounds n := by
  simp [State.inRange, h]

/-- A range check goes on, or takes the fault; nothing else. -/
theorem State.inRange_cases {i : Instr} {base len : Nat} :
    s.inRange i base len t = .next t ∨ ∃ n, s.inRange i base len t = s.raise i .memoryOutOfBounds n := by
  cases h : checkRange base len with
  | none => exact .inl (inRange_of_none h)
  | some n => exact .inr ⟨n, inRange_of_some h⟩

/-! ## Timers and audio -/

/-- FX18 writes ST, and appends one event exactly when tone_on changes (R55, R232). -/
theorem State.setSound_eq :
    s.setSound b = { s with st := b, toneOut := s.toneOut ++ if (b != 0) = s.toneOn then [] else [b != 0] } := by
  have hb : (s.setSt b).toneOn = (b != 0) := by simp [State.toneOn, State.soundZero, bne]
  unfold State.setSound
  rw [hb]
  split
  · simp [State.setSt]
  · rfl

/-! ## Input (R217, R220) -/

theorem keyOfByte_of_lt (h : b.toNat < 16) : keyOfByte b = some ⟨b.toNat, h⟩ := dif_pos h

theorem keyOfByte_of_ge (h : 16 ≤ b.toNat) : keyOfByte b = none := dif_neg (by omega)

/-- The smallest pressed key. -/
theorem State.firstPressed_eq_some {k : RegIndex} :
    s.firstPressed = some k ↔ s.pressed k = true ∧ ∀ j < k, s.pressed j = false := by
  unfold State.firstPressed
  rw [List.find?_eq_some_iff_getElem]
  simp only [List.length_finRange, List.getElem_finRange, Bool.not_eq_true',
    and_congr_right_iff]
  intro _
  constructor
  · rintro ⟨n, hn, rfl, h⟩ j hj
    exact h j.val hj
  · intro h
    exact ⟨k.val, k.isLt, rfl, fun j hj => h ⟨j, by omega⟩ hj⟩

theorem State.firstPressed_eq_none : s.firstPressed = none ↔ ∀ k, s.pressed k = false := by
  simp [State.firstPressed]

end Sys2Proof.Machine
end

