-- ==== Sys2Proof/Laws/PerInstr.lean ====
section
/-! SUPPORT. Laws/PerInstr.lean: the family EncodingFitsRow, one lemma per instruction: an instruction is well-formed, and
its encoded word selects its own row of the opcode map (30_encoding.md R84). -/

namespace Sys2Proof.Laws

section Masks

variable (c n : Nibble) (x y : RegIndex) (kk : Byte) (nnn : Addr)

/-- A mask over a concatenation masks each part. -/
theorem append_and_append {a b : Nat} (u u' : BitVec a) (v v' : BitVec b) :
    (u ++ v) &&& (u' ++ v') = (u &&& u') ++ (v &&& v') := by
  ext k hk
  simp only [BitVec.getElem_and, BitVec.getElem_append]
  split <;> rfl

theorem encodeXNN_and_class : encodeXNN c x kk &&& 0xF000 = c ++ 0#4 ++ 0#8 := by
  show (c ++ regBits x ++ kk) &&& (BitVec.allOnes 4 ++ 0#4 ++ 0#8) = _
  rw [append_and_append, append_and_append, BitVec.and_allOnes, BitVec.and_zero, BitVec.and_zero]

theorem encodeXNN_and_classNN : encodeXNN c x kk &&& 0xF0FF = c ++ 0#4 ++ kk := by
  show (c ++ regBits x ++ kk) &&& (BitVec.allOnes 4 ++ 0#4 ++ BitVec.allOnes 8) = _
  rw [append_and_append, append_and_append, BitVec.and_allOnes, BitVec.and_allOnes, BitVec.and_zero]

theorem encodeXYN_and_class : encodeXYN c x y n &&& 0xF000 = c ++ 0#4 ++ 0#4 ++ 0#4 := by
  show (c ++ regBits x ++ regBits y ++ n) &&& (BitVec.allOnes 4 ++ 0#4 ++ 0#4 ++ 0#4) =
    (c ++ 0#4 ++ 0#4 ++ 0#4 : BitVec (4 + 4 + 4 + 4))
  rw [append_and_append, append_and_append, append_and_append, BitVec.and_allOnes, BitVec.and_zero, BitVec.and_zero,
    BitVec.and_zero]

theorem encodeXYN_and_classN : encodeXYN c x y n &&& 0xF00F = c ++ 0#4 ++ 0#4 ++ n := by
  show (c ++ regBits x ++ regBits y ++ n) &&& (BitVec.allOnes 4 ++ 0#4 ++ 0#4 ++ BitVec.allOnes 4) =
    (c ++ 0#4 ++ 0#4 ++ n : BitVec (4 + 4 + 4 + 4))
  rw [append_and_append, append_and_append, append_and_append, BitVec.and_allOnes, BitVec.and_allOnes, BitVec.and_zero,
    BitVec.and_zero]

theorem encodeNNN_and_class : encodeNNN c nnn &&& 0xF000 = c ++ 0#12 := by
  show (c ++ nnn) &&& (BitVec.allOnes 4 ++ 0#12) = _
  rw [append_and_append, BitVec.and_allOnes, BitVec.and_zero]

end Masks

/-- The instruction is well-formed, and its word selects its row. -/
def EncodingFitsRow.Statement (i : Instr) : Prop := i.wellFormed = true ∧ i.row.selects (encode i) = true

/-- A row selects a word whose masked bits are the row's pattern. -/
theorem EncodingFitsRow.of_masked {i : Instr} (h : encode i &&& i.row.mask = i.row.pattern) :
    EncodingFitsRow.Statement i :=
  ⟨i.wellFormed_all, by simp [OpcodeRow.selects, h]⟩

theorem EncodingFitsRow.cls : EncodingFitsRow.Statement .cls := of_masked rfl

theorem EncodingFitsRow.ret : EncodingFitsRow.Statement .ret := of_masked rfl

theorem EncodingFitsRow.jp (nnn : Addr) : EncodingFitsRow.Statement (.jp nnn) :=
  of_masked (encodeNNN_and_class _ _)

theorem EncodingFitsRow.call (nnn : Addr) : EncodingFitsRow.Statement (.call nnn) :=
  of_masked (encodeNNN_and_class _ _)

theorem EncodingFitsRow.seByte (x : RegIndex) (kk : Byte) : EncodingFitsRow.Statement (.seByte x kk) :=
  of_masked (encodeXNN_and_class _ _ _)

theorem EncodingFitsRow.sneByte (x : RegIndex) (kk : Byte) : EncodingFitsRow.Statement (.sneByte x kk) :=
  of_masked (encodeXNN_and_class _ _ _)

theorem EncodingFitsRow.seReg (x y : RegIndex) : EncodingFitsRow.Statement (.seReg x y) :=
  of_masked (encodeXYN_and_classN _ _ _ _)

theorem EncodingFitsRow.ldByte (x : RegIndex) (kk : Byte) : EncodingFitsRow.Statement (.ldByte x kk) :=
  of_masked (encodeXNN_and_class _ _ _)

theorem EncodingFitsRow.addByte (x : RegIndex) (kk : Byte) : EncodingFitsRow.Statement (.addByte x kk) :=
  of_masked (encodeXNN_and_class _ _ _)

theorem EncodingFitsRow.ldReg (x y : RegIndex) : EncodingFitsRow.Statement (.ldReg x y) :=
  of_masked (encodeXYN_and_classN _ _ _ _)

theorem EncodingFitsRow.orReg (x y : RegIndex) : EncodingFitsRow.Statement (.orReg x y) :=
  of_masked (encodeXYN_and_classN _ _ _ _)

theorem EncodingFitsRow.andReg (x y : RegIndex) : EncodingFitsRow.Statement (.andReg x y) :=
  of_masked (encodeXYN_and_classN _ _ _ _)

theorem EncodingFitsRow.xorReg (x y : RegIndex) : EncodingFitsRow.Statement (.xorReg x y) :=
  of_masked (encodeXYN_and_classN _ _ _ _)

theorem EncodingFitsRow.addReg (x y : RegIndex) : EncodingFitsRow.Statement (.addReg x y) :=
  of_masked (encodeXYN_and_classN _ _ _ _)

theorem EncodingFitsRow.subReg (x y : RegIndex) : EncodingFitsRow.Statement (.subReg x y) :=
  of_masked (encodeXYN_and_classN _ _ _ _)

theorem EncodingFitsRow.shr (x y : RegIndex) : EncodingFitsRow.Statement (.shr x y) :=
  of_masked (encodeXYN_and_classN _ _ _ _)

theorem EncodingFitsRow.subnReg (x y : RegIndex) : EncodingFitsRow.Statement (.subnReg x y) :=
  of_masked (encodeXYN_and_classN _ _ _ _)

theorem EncodingFitsRow.shl (x y : RegIndex) : EncodingFitsRow.Statement (.shl x y) :=
  of_masked (encodeXYN_and_classN _ _ _ _)

theorem EncodingFitsRow.sneReg (x y : RegIndex) : EncodingFitsRow.Statement (.sneReg x y) :=
  of_masked (encodeXYN_and_classN _ _ _ _)

theorem EncodingFitsRow.ldI (nnn : Addr) : EncodingFitsRow.Statement (.ldI nnn) :=
  of_masked (encodeNNN_and_class _ _)

theorem EncodingFitsRow.rnd (x : RegIndex) (kk : Byte) : EncodingFitsRow.Statement (.rnd x kk) :=
  of_masked (encodeXNN_and_class _ _ _)

theorem EncodingFitsRow.drw (x y : RegIndex) (n : Nibble) : EncodingFitsRow.Statement (.drw x y n) :=
  of_masked (encodeXYN_and_class _ _ _ _)

theorem EncodingFitsRow.skp (x : RegIndex) : EncodingFitsRow.Statement (.skp x) :=
  of_masked (encodeXNN_and_classNN _ _ _)

theorem EncodingFitsRow.sknp (x : RegIndex) : EncodingFitsRow.Statement (.sknp x) :=
  of_masked (encodeXNN_and_classNN _ _ _)

theorem EncodingFitsRow.ldVxDt (x : RegIndex) : EncodingFitsRow.Statement (.ldVxDt x) :=
  of_masked (encodeXNN_and_classNN _ _ _)

theorem EncodingFitsRow.ldVxK (x : RegIndex) : EncodingFitsRow.Statement (.ldVxK x) :=
  of_masked (encodeXNN_and_classNN _ _ _)

theorem EncodingFitsRow.ldDtVx (x : RegIndex) : EncodingFitsRow.Statement (.ldDtVx x) :=
  of_masked (encodeXNN_and_classNN _ _ _)

theorem EncodingFitsRow.ldStVx (x : RegIndex) : EncodingFitsRow.Statement (.ldStVx x) :=
  of_masked (encodeXNN_and_classNN _ _ _)

theorem EncodingFitsRow.addI (x : RegIndex) : EncodingFitsRow.Statement (.addI x) :=
  of_masked (encodeXNN_and_classNN _ _ _)

theorem EncodingFitsRow.ldF (x : RegIndex) : EncodingFitsRow.Statement (.ldF x) :=
  of_masked (encodeXNN_and_classNN _ _ _)

theorem EncodingFitsRow.ldB (x : RegIndex) : EncodingFitsRow.Statement (.ldB x) :=
  of_masked (encodeXNN_and_classNN _ _ _)

theorem EncodingFitsRow.ldMemVx (x : RegIndex) : EncodingFitsRow.Statement (.ldMemVx x) :=
  of_masked (encodeXNN_and_classNN _ _ _)

theorem EncodingFitsRow.ldVxMem (x : RegIndex) : EncodingFitsRow.Statement (.ldVxMem x) :=
  of_masked (encodeXNN_and_classNN _ _ _)

end Sys2Proof.Laws
end

