-- ==== Sys2Proof/Laws/Sprite.lean ====
section
/-! SUPPORT. Laws/Sprite.lean: what drawing a sprite does, cell by cell (41_display.md R121-R123). No two lit pixels of a
sprite land on one cell, so the pixel loop is an exclusive or with the set of cells its lit pixels land on. -/

namespace Sys2Proof.Machine

open Sys2Proof.Config (SpriteEdge)

variable {edge : SpriteEdge} {px py : Nat} {row : Byte} {rows : List Byte} {c : CellPos}

/-! ## Where pixels land -/

/-- Under both policies a pixel that lands has its column mod 64 and its row mod 32. -/
theorem spriteTarget_eq_some (h : spriteTarget edge px py = some c) : c.1.val = px % 64 ∧ c.2.val = py % 32 := by
  cases edge with
  | clip =>
    simp only [spriteTarget] at h
    split at h
    next hb => cases h; exact ⟨(Nat.mod_eq_of_lt hb.1).symm, (Nat.mod_eq_of_lt hb.2).symm⟩
    · cases h
  | wrap => cases h; exact ⟨rfl, rfl⟩

theorem mem_litRow :
    c ∈ litRow edge px py row ↔ ∃ k < 8, spriteBit row k = true ∧ spriteTarget edge (px + k) py = some c := by
  simp [litRow]

theorem mem_litCells :
    c ∈ litCells edge px py rows ↔
      ∃ r, ∃ h : r < rows.length, ∃ k < 8, spriteBit rows[r] k = true ∧ spriteTarget edge (px + k) (py + r) = some c := by
  induction rows generalizing py with
  | nil => simp [litCells]
  | cons row rows ih =>
    rw [litCells, List.mem_append, mem_litRow, ih]
    constructor
    · rintro (⟨k, hk, h⟩ | ⟨r, hr, k, hk, h⟩)
      · exact ⟨0, by simp, k, hk, h⟩
      · exact ⟨r + 1, by simpa using hr, k, hk, by simpa [Nat.add_assoc, Nat.add_comm 1] using h⟩
    · rintro ⟨r, hr, k, hk, h⟩
      cases r with
      | zero => exact .inl ⟨k, hk, h⟩
      | succ r => exact .inr ⟨r, by simpa using hr, k, hk, by simpa [Nat.add_assoc, Nat.add_comm 1] using h⟩

theorem litRow_nodup : (litRow edge px py row).Nodup := by
  unfold litRow
  refine List.pairwise_filterMap.2 ((List.pairwise_lt_range (n := 8)).imp_of_mem fun hj hk hlt => ?_)
  intro c hc d hd e
  subst e
  simp only [List.mem_range] at hj hk
  simp only [Option.ite_none_right_eq_some] at hc hd
  have h1 := (spriteTarget_eq_some hc.2).1
  have h2 := (spriteTarget_eq_some hd.2).1
  omega

theorem litCells_nodup (h : rows.length ≤ 32) : (litCells edge px py rows).Nodup := by
  induction rows generalizing py with
  | nil => simp [litCells]
  | cons row rows ih =>
    simp only [List.length_cons] at h
    refine List.nodup_append.2 ⟨litRow_nodup, ih (by omega), fun c hc d hd e => ?_⟩
    subst e
    obtain ⟨k, -, -, hk⟩ := mem_litRow.1 hc
    obtain ⟨r, hr, j, -, -, hj⟩ := mem_litCells.1 hd
    have h1 := (spriteTarget_eq_some hk).2
    have h2 := (spriteTarget_eq_some hj).2
    omega

/-! ## The pixel loop -/

theorem Display.flip_cell (d : Display) (a c : CellPos) :
    Display.cell (Display.flip d a) c = (Display.cell d c ^^ decide (c = a)) := by
  obtain ⟨x, y⟩ := a
  obtain ⟨x', y'⟩ := c
  simp only [Display.cell, Display.flip, Fin.getElem_fin, Vector.getElem_set, Prod.mk.injEq]
  by_cases hy : y' = y
  · subst hy
    by_cases hx : x' = x
    · subst hx; simp
    · have : ¬ x.val = x'.val := fun e => hx (Fin.ext e.symm)
      simp [hx, this]
  · have : ¬ y.val = y'.val := fun e => hy (Fin.ext e.symm)
    simp [hy, this]

/-- Over distinct cells the pixel loop toggles each once, and finds a collision exactly if one of them was on (R123). -/
theorem Display.xorCells_spec {cs : List CellPos} (h : cs.Nodup) (d : Display) (b : Bool) :
    (∀ c, Display.cell (Display.xorCells cs (d, b)).1 c = (Display.cell d c ^^ decide (c ∈ cs))) ∧
    (Display.xorCells cs (d, b)).2 = (b || cs.any (Display.cell d)) := by
  induction cs generalizing d b with
  | nil => simp [Display.xorCells]
  | cons a cs ih =>
    obtain ⟨ha, hcs⟩ := List.nodup_cons.1 h
    obtain ⟨h1, h2⟩ := ih hcs (Display.flip d a) (b || Display.cell d a)
    refine ⟨fun c => ?_, ?_⟩
    · rw [Display.xorCells, h1, Display.flip_cell]
      by_cases hc : c = a
      · subst hc; simp [ha]
      · simp [hc]
    · rw [Display.xorCells, h2, List.any_cons, Bool.or_assoc]
      congr 2
      rw [Bool.eq_iff_iff]
      simp only [List.any_eq_true]
      refine exists_congr fun c => and_congr_right fun hc => ?_
      have hne : c ≠ a := fun e => ha (e ▸ hc)
      rw [Display.flip_cell, decide_eq_false hne, Bool.xor_false]

/-! ## Drawing -/

/-- The cells the lit pixels of a sprite drawn at (vx, vy) land on. -/
def spriteCells (edge : SpriteEdge) (vx vy : Byte) (rows : List Byte) : List CellPos :=
  litCells edge (spriteOrigin vx vy).1 (spriteOrigin vx vy).2 rows

/-- Every cell is XORed with the sprite (R121). -/
theorem State.drawSprite_cell (s : State) (vx vy : Byte) (h : rows.length ≤ 32) :
    Display.cell (s.drawSprite vx vy rows).disp c =
      (Display.cell s.disp c ^^ decide (c ∈ spriteCells s.params.spriteEdge vx vy rows)) :=
  (Display.xorCells_spec (litCells_nodup h) s.disp false).1 c

/-- VF is the collision flag; no other register changes (R121, R123). -/
theorem State.drawSprite_reg (s : State) (vx vy : Byte) (y : RegIndex) (h : rows.length ≤ 32) :
    (s.drawSprite vx vy rows).reg y =
      if y = flagReg then collisionFlag ((spriteCells s.params.spriteEdge vx vy rows).any (Display.cell s.disp))
      else s.reg y := by
  unfold State.drawSprite
  simp only [State.setFlag_reg, State.setDisp_reg, (Display.xorCells_spec (litCells_nodup h) s.disp false).2,
    Bool.false_or]
  rfl

/-- Drawing changes the register file and the display only. -/
theorem State.drawSprite_frame (s : State) (vx vy : Byte) :
    s.drawSprite vx vy rows =
      { s with v := (s.drawSprite vx vy rows).v, disp := (s.drawSprite vx vy rows).disp } := rfl

end Sys2Proof.Machine
end

