-- ==== Sys2Proof/Laws/Step.lean ====
section
/-! SUPPORT. Laws/Step.lean: what `stepKind` can be, and what a step and an instruction can do (40_step_cycle.md R100). -/

namespace Sys2Proof.Machine

variable {s t : State}

/-! ## Other output streams (Safety.lean) -/

section setStreams

variable (s : State) (d : List DiagEvent) (o : List Bool)

@[simp] theorem State.setStreams_v : (s.setStreams d o).v = s.v := rfl
@[simp] theorem State.setStreams_pc : (s.setStreams d o).pc = s.pc := rfl
@[simp] theorem State.setStreams_i : (s.setStreams d o).i = s.i := rfl
@[simp] theorem State.setStreams_sp : (s.setStreams d o).sp = s.sp := rfl
@[simp] theorem State.setStreams_stack : (s.setStreams d o).stack = s.stack := rfl
@[simp] theorem State.setStreams_dt : (s.setStreams d o).dt = s.dt := rfl
@[simp] theorem State.setStreams_st : (s.setStreams d o).st = s.st := rfl
@[simp] theorem State.setStreams_mem : (s.setStreams d o).mem = s.mem := rfl
@[simp] theorem State.setStreams_disp : (s.setStreams d o).disp = s.disp := rfl
@[simp] theorem State.setStreams_key : (s.setStreams d o).key = s.key := rfl
@[simp] theorem State.setStreams_wait : (s.setStreams d o).wait = s.wait := rfl
@[simp] theorem State.setStreams_fault : (s.setStreams d o).fault = s.fault := rfl
@[simp] theorem State.setStreams_phase : (s.setStreams d o).phase = s.phase := rfl
@[simp] theorem State.setStreams_rngDraws : (s.setStreams d o).rngDraws = s.rngDraws := rfl
@[simp] theorem State.setStreams_params : (s.setStreams d o).params = s.params := rfl
@[simp] theorem State.setStreams_diagOut : (s.setStreams d o).diagOut = d := rfl
@[simp] theorem State.setStreams_toneOut : (s.setStreams d o).toneOut = o := rfl
@[simp] theorem State.setStreams_reg (y : RegIndex) : (s.setStreams d o).reg y = s.reg y := rfl
@[simp] theorem State.setStreams_byteAt (n : Nat) : (s.setStreams d o).byteAt n = s.byteAt n := rfl
@[simp] theorem State.setStreams_pressed (j : RegIndex) : (s.setStreams d o).pressed j = s.pressed j := rfl
@[simp] theorem State.setStreams_fetchWord : (s.setStreams d o).fetchWord = s.fetchWord := rfl
@[simp] theorem State.setStreams_firstPressed : (s.setStreams d o).firstPressed = s.firstPressed := rfl
@[simp] theorem State.setStreams_stepKind : (s.setStreams d o).stepKind = s.stepKind := rfl
@[simp] theorem State.setStreams_setStreams (d' : List DiagEvent) (o' : List Bool) :
    (s.setStreams d o).setStreams d' o' = s.setStreams d' o' := rfl

end setStreams

/-! ## Which kind of step (R51, R100) -/

theorem State.stepKind_idle (h : s.phase ≠ .running) : s.stepKind = .idle := if_neg h

theorem State.stepKind_poll {x : RegIndex} (hp : s.phase = .running) (hw : s.wait = some x) :
    s.stepKind = .poll x := by
  simp [State.stepKind, hp, hw]

theorem State.stepKind_fetch (hp : s.phase = .running) (hw : s.wait = none) : s.stepKind = s.fetchKind := by
  simp [State.stepKind, hp, hw]

/-- The two bytes of a fetch are in range exactly if PC + 1 is at most 0xFFF (R101). -/
theorem checkRange_fetch {a : Nat} : checkRange a 2 = if a + 1 > 0xFFF then some (max a 0x1000) else none := by
  simp [checkRange, Config.lastAddr, Config.memSize]

theorem State.fetchKind_out (h : s.pc.toNat + 1 > 0xFFF) : s.fetchKind = .fetchFault (max s.pc.toNat 0x1000) := by
  unfold State.fetchKind
  rw [checkRange_fetch, if_pos h]

theorem State.fetchKind_in (h : s.pc.toNat + 1 ≤ 0xFFF) : s.fetchKind = decodedKind (decode s.fetchWord) := by
  unfold State.fetchKind
  rw [checkRange_fetch, if_neg (by omega)]

/-- Everything a step can do. -/
theorem step_cases (h : step s = .next t) :
    (s.phase ≠ .running ∧ t = s) ∨
    (∃ x, s.phase = .running ∧ s.wait = some x ∧ t = s.blockedPoll x) ∨
    (s.phase = .running ∧ s.wait = none ∧ s.pc.toNat + 1 > 0xFFF ∧ t = s.raiseFetch (max s.pc.toNat 0x1000)) ∨
    (s.phase = .running ∧ s.wait = none ∧ s.pc.toNat + 1 ≤ 0xFFF ∧ decodeInstr s.fetchWord = none ∧
      t = s.unimplemented s.fetchWord) ∨
    (∃ i, s.phase = .running ∧ s.wait = none ∧ s.pc.toNat + 1 ≤ 0xFFF ∧ decodeInstr s.fetchWord = some i ∧
      exec i s.advance = .next t) := by
  unfold step at h
  by_cases hp : s.phase = .running
  · cases hw : s.wait with
    | some x =>
      rw [State.stepKind_poll hp hw] at h
      cases h
      exact .inr (.inl ⟨x, hp, rfl, rfl⟩)
    | none =>
      rw [State.stepKind_fetch hp hw] at h
      refine .inr (.inr ?_)
      by_cases hr : s.pc.toNat + 1 > 0xFFF
      · rw [State.fetchKind_out hr] at h
        cases h
        exact .inl ⟨hp, rfl, hr, rfl⟩
      · rw [State.fetchKind_in (by omega), decode] at h
        refine .inr ?_
        cases hd : decodeInstr s.fetchWord with
        | none =>
          rw [hd] at h
          cases h
          exact .inl ⟨hp, rfl, by omega, rfl, rfl⟩
        | some i =>
          rw [hd] at h
          exact .inr ⟨i, hp, rfl, by omega, rfl, h⟩
  · rw [State.stepKind_idle hp] at h
    cases h
    exact .inl ⟨hp, rfl⟩

/-- The poll changes V[x] and WAIT, or nothing (R222). -/
theorem State.blockedPoll_cases (x : RegIndex) :
    s.blockedPoll x = s ∨ ∃ k, s.firstPressed = some k ∧ s.blockedPoll x = (s.setReg x (byteOfKey k)).setWait none := by
  unfold State.blockedPoll
  cases h : s.firstPressed with
  | none => exact .inl rfl
  | some k => exact .inr ⟨k, rfl, rfl⟩

/-! ## What an instruction can do -/

/-- What no instruction touches, and FAULT and PHASE, which only a fault touches. -/
structure Quiet (s t : State) : Prop where
  key     : t.key = s.key
  params  : t.params = s.params
  diagOut : t.diagOut = s.diagOut
  fault   : t.fault = s.fault
  phase   : t.phase = s.phase

/-- Every instruction raises the fault its cause gives, or completes and is quiet (R240, R241). -/
def FaultOrQuiet (i : Instr) (s : State) : Prop :=
  (∃ k v, k ≠ .loadError ∧ exec i s = s.raise i k v) ∨ (∃ t, exec i s = .next t ∧ Quiet s t)

theorem Quiet.refl : Quiet s s := ⟨rfl, rfl, rfl, rfl, rfl⟩

theorem Quiet.skipIf (c : Bool) : Quiet s (s.skipIf c) := by
  rw [State.skipIf_eq]; exact ⟨rfl, rfl, rfl, rfl, rfl⟩

theorem Quiet.setSound (b : Byte) : Quiet s (s.setSound b) := by
  rw [State.setSound_eq]; exact ⟨rfl, rfl, rfl, rfl, rfl⟩

theorem Quiet.loadRegs (x : RegIndex) (n : Nat) : Quiet s (s.loadRegs x n) := by constructor <;> simp

theorem FaultOrQuiet.of_inRange {i : Instr} {base len : Nat} (h : exec i s = s.inRange i base len t)
    (q : Quiet s t) : FaultOrQuiet i s := by
  rcases State.inRange_cases (s := s) (t := t) (i := i) (base := base) (len := len) with e | ⟨n, e⟩
  · exact .inr ⟨t, h.trans e, q⟩
  · exact .inl ⟨.memoryOutOfBounds, n, by decide, h.trans e⟩

theorem FaultOrQuiet.of_next {i : Instr} (h : exec i s = .next t) (q : Quiet s t) : FaultOrQuiet i s := .inr ⟨t, h, q⟩

/-! The instructions whose outcome depends on SP or on the value of a register. -/

theorem execRet_of_pos (h : 0 < s.sp.val) :
    execRet s = .next ((s.setSp ⟨s.sp.val - 1, by omega⟩).setPc s.stack[s.sp.val - 1]) := by
  simp only [execRet, State.pop_of_pos h]

theorem execRet_of_empty (h : s.sp.val = 0) : execRet s = s.raise .ret .stackUnderflow 0 := by
  simp only [execRet, State.pop_of_empty h, h]

theorem execCall_of_lt (nnn : Addr) (h : s.sp.val < 16) :
    execCall nnn s =
      .next (((s.setStack (s.stack.set s.sp.val s.pc)).setSp ⟨s.sp.val + 1, by omega⟩).setPc (zextAddr nnn)) := by
  simp only [execCall, State.push_of_lt h]

theorem execCall_of_full (nnn : Addr) (h : s.sp.val = 16) :
    execCall nnn s = s.raise (.call nnn) .stackOverflow 16 := by
  simp only [execCall, State.push_of_full h, h]

theorem execSkp_of_lt {x : RegIndex} (h : (s.reg x).toNat < 16) :
    execSkp x s = .next (s.skipIf (s.pressed ⟨(s.reg x).toNat, h⟩)) := by
  simp only [execSkp, keyOfByte_of_lt h]

theorem execSkp_of_ge {x : RegIndex} (h : 16 ≤ (s.reg x).toNat) :
    execSkp x s = s.raise (.skp x) .keyOutOfRange (s.reg x).toNat := by
  simp only [execSkp, keyOfByte_of_ge h]

theorem execSknp_of_lt {x : RegIndex} (h : (s.reg x).toNat < 16) :
    execSknp x s = .next (s.skipIf (!s.pressed ⟨(s.reg x).toNat, h⟩)) := by
  simp only [execSknp, keyOfByte_of_lt h]

theorem execSknp_of_ge {x : RegIndex} (h : 16 ≤ (s.reg x).toNat) :
    execSknp x s = s.raise (.sknp x) .keyOutOfRange (s.reg x).toNat := by
  simp only [execSknp, keyOfByte_of_ge h]

theorem execLdVxK_of_some {x k : RegIndex} (h : s.firstPressed = some k) :
    execLdVxK x s = .next (s.setReg x (byteOfKey k)) := by
  simp only [execLdVxK, h]

theorem execLdVxK_of_none {x : RegIndex} (h : s.firstPressed = none) : execLdVxK x s = .next (s.setWait (some x)) := by
  simp only [execLdVxK, h]

theorem exec_faultOrQuiet (i : Instr) (s : State) : FaultOrQuiet i s := by
  cases i with
  | ret =>
    by_cases h : 0 < s.sp.val
    · refine .of_next (execRet_of_pos h) ?_
      exact ⟨rfl, rfl, rfl, rfl, rfl⟩
    · exact .inl ⟨_, _, by decide, execRet_of_empty (by omega)⟩
  | call nnn =>
    by_cases h : s.sp.val < 16
    · refine .of_next (execCall_of_lt nnn h) ?_
      exact ⟨rfl, rfl, rfl, rfl, rfl⟩
    · exact .inl ⟨_, _, by decide, execCall_of_full nnn (by omega)⟩
  | skp x =>
    by_cases h : (s.reg x).toNat < 16
    · exact .of_next (execSkp_of_lt h) (.skipIf _)
    · exact .inl ⟨_, _, by decide, execSkp_of_ge (by omega)⟩
  | sknp x =>
    by_cases h : (s.reg x).toNat < 16
    · exact .of_next (execSknp_of_lt h) (.skipIf _)
    · exact .inl ⟨_, _, by decide, execSknp_of_ge (by omega)⟩
  | ldVxK x =>
    cases h : s.firstPressed with
    | some k =>
      refine .of_next (execLdVxK_of_some h) ?_
      exact ⟨rfl, rfl, rfl, rfl, rfl⟩
    | none =>
      refine .of_next (execLdVxK_of_none h) ?_
      exact ⟨rfl, rfl, rfl, rfl, rfl⟩
  | seByte x kk => exact .of_next rfl (.skipIf _)
  | sneByte x kk => exact .of_next rfl (.skipIf _)
  | seReg x y => exact .of_next rfl (.skipIf _)
  | sneReg x y => exact .of_next rfl (.skipIf _)
  | ldStVx x => exact .of_next rfl (.setSound _)
  | drw x y n =>
    refine .of_inRange rfl ?_
    exact ⟨rfl, rfl, rfl, rfl, rfl⟩
  | ldB x =>
    refine .of_inRange rfl ?_
    exact ⟨rfl, rfl, rfl, rfl, rfl⟩
  | ldMemVx x =>
    refine .of_inRange rfl ?_
    exact ⟨rfl, rfl, rfl, rfl, rfl⟩
  | ldVxMem x => exact .of_inRange rfl (.loadRegs x _)
  | cls | jp nnn | ldByte x kk | addByte x kk | ldReg x y | orReg x y | andReg x y | xorReg x y | addReg x y | subReg x y
  | shr x y | subnReg x y | shl x y | ldI nnn | rnd x kk | ldVxDt x | ldDtVx x | addI x | ldF x =>
    refine .of_next rfl ?_
    exact ⟨rfl, rfl, rfl, rfl, rfl⟩

end Sys2Proof.Machine
end

