-- ==== Sys2Proof/Tests/Slice0.lean ====
section
/-! SUPPORT. Tests/Slice0.lean: the model's own tests. Expected results are those of 95_test_vectors.md, whose entry each
test names, or bit strings of 30_encoding.md R84. Every `witness_` theorem shows that the hypotheses of the statement it
names, or of the clause it names, can be met together. -/

namespace Sys2Proof.Tests

open Sys2Proof.Machine

/-! ## Small states -/

/-- The post-load state of a program of no bytes (R283). -/
def post : State := { State.reset with phase := .running }

/-- `post` with these register values. -/
def withRegs (vs : List (RegIndex × Byte)) : State := vs.foldl (fun s p => s.setReg p.1 p.2) post

/-- The state with the word `w` at PC. -/
def runs (w : Nat) (s : State) : State := s.withFetchWord 16 w

/-- The state after one step. -/
def after (s : State) : State :=
  match step s with
  | .next t => t
  | .fault _ => s
  | .refused _ => s

/-- The state after one instruction. -/
def afterExec (i : Instr) (s : State) : State :=
  match exec i s with
  | .next t => t
  | .fault _ => s
  | .refused _ => s

/-- The state with the cell toggled. -/
def toggled (c : CellPos) (s : State) : State := s.setDisp (Display.flip s.disp c)

/-- The state with the key pressed. -/
def holding (k : RegIndex) (s : State) : State := s.setKey (s.key.set k true)

/-- The fault record a step leaves (95_test_vectors.md, "Fault (K, a, w, v)"): PC is `a`. -/
def faulted (k : Fault) (a : Word) (w : Option Word) (v : Nat) (t : State) : Bool :=
  decide (t.fault = some ⟨k, a, w, v⟩) && decide (t.phase = .halted) && decide (t.pc = a)

/-! ## Well-formedness (R81-R83) -/

/-- No instruction is ill-formed: the operand types are the fields' widths. -/
theorem test_wellformed_all (i : Instr) : i.wellFormed = true := i.wellFormed_all

/-- An ill-formed word for each check of R83 is refused: class 0 (T1.3, T1.4), N in 5, 9 and 8 (T1.5-T1.7), class B (T1.8),
NN in E and F (T1.9, T1.10). -/
theorem test_ill_formed_words_refused :
    decode 0x01E0 = .unimplemented 0x01E0 ∧ decode 0x00EF = .unimplemented 0x00EF ∧
    decode 0x5121 = .unimplemented 0x5121 ∧ decode 0x9121 = .unimplemented 0x9121 ∧
    decode 0x8128 = .unimplemented 0x8128 ∧ decode 0x812F = .unimplemented 0x812F ∧
    decode 0xB300 = .unimplemented 0xB300 ∧ decode 0xE19F = .unimplemented 0xE19F ∧
    decode 0xE1A0 = .unimplemented 0xE1A0 ∧ decode 0xF1FF = .unimplemented 0xF1FF ∧
    decode 0xF175 = .unimplemented 0xF175 := by decide

/-- The check on words says the same. -/
theorem test_word_check :
    wordImplemented 0x01E0 = false ∧ wordImplemented 0x5121 = false ∧ wordImplemented 0x9121 = false ∧
    wordImplemented 0x8128 = false ∧ wordImplemented 0xB300 = false ∧ wordImplemented 0xE19F = false ∧
    wordImplemented 0xF1FF = false ∧ wordImplemented 0x00E0 = true := by decide

/-- A byte sequence shorter than a word is refused by name, and the first byte is the high one (R67, R80). -/
theorem test_decode_bytes :
    decodeBytes [] = .tooShort [] ∧ decodeBytes [0x12] = .tooShort [0x12] ∧
    decodeBytes [0x12, 0x34, 0x56] = .word (.instr (.jp 0x234)) [0x56] := by decide

/-! ## Decoding, from the bit strings of R84 -/

theorem test_decode_cls : decode 0b0000000011100000 = .instr .cls := by decide
theorem test_decode_ret : decode 0b0000000011101110 = .instr .ret := by decide
theorem test_decode_jp : decode 0b0001001000110100 = .instr (.jp 0x234) := by decide
theorem test_decode_call : decode 0b0010001100000001 = .instr (.call 0x301) := by decide
theorem test_decode_seByte : decode 0b0011001100010010 = .instr (.seByte 3 0x12) := by decide
theorem test_decode_sneByte : decode 0b0100001100010011 = .instr (.sneByte 3 0x13) := by decide
theorem test_decode_seReg : decode 0b0101000100100000 = .instr (.seReg 1 2) := by decide
theorem test_decode_ldByte : decode 0b0110101010011100 = .instr (.ldByte 10 0x9C) := by decide
theorem test_decode_addByte : decode 0b0111001100001010 = .instr (.addByte 3 0x0A) := by decide
theorem test_decode_ldReg : decode 0b1000000100100000 = .instr (.ldReg 1 2) := by decide
theorem test_decode_orReg : decode 0b1000000100100001 = .instr (.orReg 1 2) := by decide
theorem test_decode_andReg : decode 0b1000000100100010 = .instr (.andReg 1 2) := by decide
theorem test_decode_xorReg : decode 0b1000000100100011 = .instr (.xorReg 1 2) := by decide
theorem test_decode_addReg : decode 0b1000000111110100 = .instr (.addReg 1 15) := by decide
theorem test_decode_subReg : decode 0b1000111100010101 = .instr (.subReg 15 1) := by decide
theorem test_decode_shr : decode 0b1000000100100110 = .instr (.shr 1 2) := by decide
theorem test_decode_subnReg : decode 0b1000000100100111 = .instr (.subnReg 1 2) := by decide
theorem test_decode_shl : decode 0b1000000100001110 = .instr (.shl 1 0) := by decide
theorem test_decode_sneReg : decode 0b1001000100100000 = .instr (.sneReg 1 2) := by decide
theorem test_decode_ldI : decode 0b1010111111111110 = .instr (.ldI 0xFFE) := by decide
theorem test_decode_rnd : decode 0b1100001100001111 = .instr (.rnd 3 0x0F) := by decide
theorem test_decode_drw : decode 0b1101111100010101 = .instr (.drw 15 1 5) := by decide
theorem test_decode_skp : decode 0b1110010110011110 = .instr (.skp 5) := by decide
theorem test_decode_sknp : decode 0b1110010110100001 = .instr (.sknp 5) := by decide
theorem test_decode_ldVxDt : decode 0b1111010100000111 = .instr (.ldVxDt 5) := by decide
theorem test_decode_ldVxK : decode 0b1111001100001010 = .instr (.ldVxK 3) := by decide
theorem test_decode_ldDtVx : decode 0b1111010100010101 = .instr (.ldDtVx 5) := by decide
theorem test_decode_ldStVx : decode 0b1111001000011000 = .instr (.ldStVx 2) := by decide
theorem test_decode_addI : decode 0b1111101000011110 = .instr (.addI 10) := by decide
theorem test_decode_ldF : decode 0b1111101000101001 = .instr (.ldF 10) := by decide
theorem test_decode_ldB : decode 0b1111101000110011 = .instr (.ldB 10) := by decide
theorem test_decode_ldMemVx : decode 0b1111001001010101 = .instr (.ldMemVx 2) := by decide
theorem test_decode_ldVxMem : decode 0b1111001001100101 = .instr (.ldVxMem 2) := by decide

/-- The host's numbering: one 16-bit word, bit 0 its least significant bit. -/
theorem test_decode_table_word : decodeTableWord 16 0x8F14 = some (.addReg 15 1) ∧ decodeTableWord 16 0xB300 = none := by
  decide

/-! ## One step of each instruction -/

/-- T2.1. -/
theorem test_cls : Display.cell (after (runs 0x00E0 (toggled (5, 7) (withRegs [(15, 7)])))).disp (5, 7) = false ∧
    (after (runs 0x00E0 (withRegs [(15, 7)]))).reg 15 = 7 := by decide

/-- T2.7: under wrap, pixels past the right edge come back at the left. -/
theorem test_drw_wraps :
    let s := (withRegs [(0, 62), (1, 31)]).setI 0x300
    let t := after (runs 0xD011 (({ s with params := { paramsReset with spriteEdge := .wrap } } : State).storeBytes 0x300
      [0xFF]))
    Display.cell t.disp (63, 31) = true ∧ Display.cell t.disp (0, 31) = true ∧ Display.cell t.disp (5, 31) = true ∧
      Display.cell t.disp (6, 31) = false ∧ t.reg 15 = 0 := by decide

/-- T2.8: a lit cell goes off and sets VF. -/
theorem test_drw_collides :
    let t := after (runs 0xD011 ((toggled (0, 0) post).storeBytes 0x301 [0xC0] |>.setI 0x301))
    Display.cell t.disp (0, 0) = false ∧ Display.cell t.disp (1, 0) = true ∧ t.reg 15 = 1 := by decide

/-- T3.5. -/
theorem test_ret :
    let t := after (runs 0x00EE (((post.setStack (post.stack.set 0 0x206)).setSp 1).setPc 0x300))
    t.pc = 0x206 ∧ t.sp = 0 := by decide

/-- T3.6. -/
theorem test_ret_underflow : faulted .stackUnderflow 0x200 (some 0x00EE) 0 (after (runs 0x00EE post)) = true := by decide

/-- T3.2: an odd target. -/
theorem test_jp : (after (runs 0x1301 post)).pc = 0x301 := by decide

/-- T1.12: the last word of memory. -/
theorem test_jp_at_end : (after (runs 0x1234 (post.setPc 0xFFE))).pc = 0x234 := by decide

/-- T3.4. -/
theorem test_call :
    let t := after (runs 0x2300 (post.setPc 0x204))
    t.stack[0] = 0x206 ∧ t.sp = 1 ∧ t.pc = 0x300 := by decide

/-- T3.7. -/
theorem test_call_overflow :
    faulted .stackOverflow 0x300 (some 0x2400) 16 (after (runs 0x2400 ((post.setSp 16).setPc 0x300))) = true := by decide

/-- T3.9: compares VF. -/
theorem test_seByte : (after (runs 0x3F12 (withRegs [(3, 0x12), (15, 0x12)]))).pc = 0x204 := by decide

/-- E10, and T1.15: a skip past the end of memory does not fault. -/
theorem test_seByte_edges : (after (runs 0x3313 (withRegs [(3, 0x12)]))).pc = 0x202 ∧
    (after (runs 0x3000 (post.setPc 0xFFC))).pc = 0x1000 := by decide

/-- E10. -/
theorem test_sneByte : (after (runs 0x4313 (withRegs [(3, 0x12)]))).pc = 0x204 ∧
    (after (runs 0x4312 (withRegs [(3, 0x12)]))).pc = 0x202 := by decide

/-- T3.10, E10. -/
theorem test_seReg : (after (runs 0x5110 (withRegs [(1, 9)]))).pc = 0x204 ∧
    (after (runs 0x5120 (withRegs [(1, 7), (2, 8)]))).pc = 0x202 := by decide

/-- T3.11, E10. -/
theorem test_sneReg : (after (runs 0x9110 (withRegs [(1, 9)]))).pc = 0x202 ∧
    (after (runs 0x9120 (withRegs [(1, 7), (2, 8)]))).pc = 0x204 := by decide

/-- E2. -/
theorem test_ldByte : (after (runs 0x6A9C post)).reg 10 = 0x9C ∧ (after (runs 0x6FFF post)).reg 15 = 0xFF := by decide

/-- E3: wraps, VF unchanged. -/
theorem test_addByte : (after (runs 0x730A (withRegs [(3, 250), (15, 1)]))).reg 3 = 4 ∧
    (after (runs 0x730A (withRegs [(3, 250), (15, 1)]))).reg 15 = 1 := by decide

/-- T4.1: VF as the destination holds data. -/
theorem test_addByte_vf : (after (runs 0x7FFF (withRegs [(15, 1)]))).reg 15 = 0 := by decide

/-- T4.3. -/
theorem test_ldReg : (after (runs 0x8120 (withRegs [(2, 0x55)]))).reg 1 = 0x55 := by decide

/-- T4.4: VF is not reset. -/
theorem test_orReg : (after (runs 0x8121 (withRegs [(1, 0x0F), (2, 0xF0), (15, 1)]))).reg 1 = 0xFF ∧
    (after (runs 0x8121 (withRegs [(1, 0x0F), (2, 0xF0), (15, 1)]))).reg 15 = 1 := by decide

/-- T4.5. -/
theorem test_andReg : (after (runs 0x8122 (withRegs [(1, 0x3C), (2, 0x0F)]))).reg 1 = 0x0C := by decide

/-- T4.6, T4.7. -/
theorem test_xorReg : (after (runs 0x8123 (withRegs [(1, 0xFF), (2, 0x0F)]))).reg 1 = 0xF0 ∧
    (after (runs 0x8113 (withRegs [(1, 0xA5)]))).reg 1 = 0 := by decide

/-- T4.10: the flag wins over the data 44. -/
theorem test_addReg_flag_wins : (after (runs 0x8F14 (withRegs [(15, 200), (1, 100)]))).reg 15 = 1 := by decide

/-- T4.12: VF is a source. -/
theorem test_addReg_from_vf : (after (runs 0x81F4 (withRegs [(1, 1), (15, 255)]))).reg 1 = 0 ∧
    (after (runs 0x81F4 (withRegs [(1, 1), (15, 255)]))).reg 15 = 1 := by decide

/-- E5. -/
theorem test_subReg : (after (runs 0x8125 (withRegs [(1, 5), (2, 10)]))).reg 1 = 251 ∧
    (after (runs 0x8125 (withRegs [(1, 5), (2, 10)]))).reg 15 = 0 := by decide

/-- T4.13, T4.14. -/
theorem test_subReg_equal_and_vf : (after (runs 0x8115 (withRegs [(1, 7)]))).reg 15 = 1 ∧
    (after (runs 0x8F15 (withRegs [(15, 7), (1, 9)]))).reg 15 = 0 := by decide

/-- T4.17: Y is ignored. -/
theorem test_shr : (after (runs 0x8126 (withRegs [(1, 4), (2, 0xFF)]))).reg 1 = 2 ∧
    (after (runs 0x8126 (withRegs [(1, 4), (2, 0xFF)]))).reg 15 = 0 := by decide

/-- T4.15, T4.19. -/
theorem test_shr_flag : (after (runs 0x8106 (withRegs [(1, 5)]))).reg 15 = 1 ∧
    (after (runs 0x8F06 (withRegs [(15, 2)]))).reg 15 = 0 := by decide

/-- T4.20. -/
theorem test_subnReg : (after (runs 0x8127 (withRegs [(1, 10), (2, 5)]))).reg 1 = 251 ∧
    (after (runs 0x8127 (withRegs [(1, 10), (2, 5)]))).reg 15 = 0 := by decide

/-- T4.22. -/
theorem test_subnReg_equal : (after (runs 0x8127 (withRegs [(1, 5), (2, 5)]))).reg 15 = 1 := by decide

/-- T4.23. -/
theorem test_shl : (after (runs 0x810E (withRegs [(1, 0x81)]))).reg 1 = 2 ∧
    (after (runs 0x810E (withRegs [(1, 0x81)]))).reg 15 = 1 := by decide

/-- T4.26: the data 0x80 is overwritten by the flag 0. -/
theorem test_shl_flag_wins : (after (runs 0x8F0E (withRegs [(15, 0x40)]))).reg 15 = 0 := by decide

/-- T5.2. -/
theorem test_ldI : (after (runs 0xAFFF post)).i = 0x0FFF := by decide

/-- T5.4: wraps, no flag. -/
theorem test_addI : (after (runs 0xF01E ((withRegs [(0, 2), (15, 1)]).setI 0xFFFF))).i = 1 ∧
    (after (runs 0xF01E ((withRegs [(0, 2), (15, 1)]).setI 0xFFFF))).reg 15 = 1 := by decide

/-- T5.3: no 12-bit wrap, no fault. -/
theorem test_addI_past_12_bits : (after (runs 0xF01E ((withRegs [(0, 1)]).setI 0xFFF))).i = 0x1000 := by decide

/-- T5.6, T5.8: not masked. -/
theorem test_ldF : (after (runs 0xF029 (withRegs [(0, 0x0F)]))).i = 0x09B ∧
    (after (runs 0xF029 (withRegs [(0, 0xFF)]))).i = 0x54B := by decide

/-- T5.12: the last three bytes. -/
theorem test_ldB : (after (runs 0xF033 ((withRegs [(0, 123)]).setI 0xFFD))).readBytes 0xFFD 3 = [1, 2, 3] := by decide

/-- T5.13. -/
theorem test_ldB_fault :
    let t := after (runs 0xF033 ((withRegs [(0, 123)]).setI 0xFFE))
    faulted .memoryOutOfBounds 0x200 (some 0xF033) 0x1000 t = true ∧ t.readBytes 0xFFE 2 = [0, 0] := by decide

/-- T5.14: the next byte and I stay. -/
theorem test_ldMemVx :
    let t := after (runs 0xF255 ((withRegs [(0, 1), (1, 2), (2, 3), (3, 4)]).setI 0x300))
    t.readBytes 0x300 4 = [1, 2, 3, 0] ∧ t.i = 0x300 := by decide

/-- T5.17. -/
theorem test_ldMemVx_fault :
    let t := after (runs 0xFF55 ((withRegs [(0, 1)]).setI 0xFF1))
    faulted .memoryOutOfBounds 0x200 (some 0xFF55) 0x1000 t = true ∧ t.byteAt 0xFF1 = 0 := by decide

/-- T5.18: V3 stays. -/
theorem test_ldVxMem :
    let t := after (runs 0xF265 (((withRegs [(3, 9)]).setI 0x300).storeBytes 0x300 [1, 5, 6]))
    t.reg 0 = 1 ∧ t.reg 1 = 5 ∧ t.reg 2 = 6 ∧ t.reg 3 = 9 := by decide

/-- T5.20: the offending address is I itself. -/
theorem test_ldVxMem_fault :
    faulted .memoryOutOfBounds 0x200 (some 0xF065) 0x2000 (after (runs 0xF065 (post.setI 0x2000))) = true := by decide

/-- T6.1, T6.4: with the draw given. -/
theorem test_rnd : (rndWith 0xA7 3 0x0F post).reg 3 = 0x07 ∧ (rndWith 0x3C 15 0xF0 (withRegs [(15, 1)])).reg 15 = 0x30 := by
  decide

/-- T6.2: for every draw. -/
theorem test_rnd_zero_mask (r : Byte) : (rndWith r 3 0 post).reg 3 = 0 ∧ (rndWith r 3 0 post).rngDraws = 1 := by
  simp [rndWith, post, State.reset]

/-- T7.3. -/
theorem test_skp : (after (runs 0xEF9E (holding 15 (withRegs [(15, 0xF)])))).pc = 0x204 := by decide

/-- T7.1. -/
theorem test_skp_fault :
    faulted .keyOutOfRange 0x200 (some 0xE59E) 0x10 (after (runs 0xE59E (withRegs [(5, 0x10)]))) = true := by decide

/-- E10. -/
theorem test_sknp : (after (runs 0xE5A1 (withRegs [(5, 4)]))).pc = 0x204 ∧
    (after (runs 0xE5A1 (holding 4 (withRegs [(5, 4)])))).pc = 0x202 := by decide

/-- T7.2. -/
theorem test_sknp_fault :
    faulted .keyOutOfRange 0x200 (some 0xE5A1) 0xFF (after (runs 0xE5A1 (withRegs [(5, 0xFF)]))) = true := by decide

/-- T8.1. -/
theorem test_ldVxDt : (after (runs 0xF507 (post.setDt 0x3C))).reg 5 = 0x3C := by decide

/-- T7.4: the lowest key, in the same step. -/
theorem test_ldVxK :
    let t := after (runs 0xF30A (holding 7 (holding 2 post)))
    t.reg 3 = 2 ∧ t.wait = none ∧ t.pc = 0x202 := by decide

/-- T7.5, T7.7: it blocks, and a poll resolves it without a fetch. -/
theorem test_ldVxK_blocks :
    let t := after (runs 0xF30A post)
    t.wait = some 3 ∧ t.pc = 0x202 ∧ t.blocked = true ∧ (after (holding 10 t)).reg 3 = 0x0A ∧
      (after (holding 10 t)).pc = 0x202 := by decide

/-- T8.2. -/
theorem test_ldDtVx : (after (runs 0xF515 (withRegs [(5, 60)]))).dt = 60 ∧
    (after (runs 0xF515 (withRegs [(5, 60)]))).delayZero = false := by decide

/-- T8.4: one event. -/
theorem test_ldStVx : (after (runs 0xF218 (withRegs [(2, 2)]))).st = 2 ∧
    (after (runs 0xF218 (withRegs [(2, 2)]))).toneOut = [true] := by decide

/-- T8.6: no event. -/
theorem test_ldStVx_quiet : (after (runs 0xF218 ((withRegs [(2, 3)]).setSt 5))).toneOut = [] := by decide

/-! ## The step, faults and the environment -/

/-- T1.1, T1.8: an unimplemented word. -/
theorem test_unimplemented : (after post).pc = 0x202 ∧ (after post).diagOut = [⟨0x200, 0⟩] ∧
    (after (runs 0xB300 (withRegs [(0, 5)]))).pc = 0x202 := by decide

/-- T1.11: an odd PC. -/
theorem test_odd_pc : (after (runs 0x6105 (post.setPc 0x201))).reg 1 = 5 ∧
    (after (runs 0x6105 (post.setPc 0x201))).pc = 0x203 := by decide

/-- T1.13, T1.14. -/
theorem test_fetch_fault : faulted .memoryOutOfBounds 0xFFF none 0x1000 (after (post.setPc 0xFFF)) = true ∧
    faulted .memoryOutOfBounds 0x1000 none 0x1000 (after (post.setPc 0x1000)) = true := by decide

/-- T2.13, T2.3: a draw past the end faults, and a draw of no rows does not. -/
theorem test_drw_range :
    faulted .memoryOutOfBounds 0x200 (some 0xD013) 0x1000 (after (runs 0xD013 (post.setI 0xFFE))) = true ∧
    (after (runs 0xD010 ((withRegs [(15, 1)]).setI 0xFFFF))).reg 15 = 0 := by decide

/-- T8.9, T8.8. -/
theorem test_tick : ((post.setDt 3).setSt 1).tickTimers.dt = 2 ∧ ((post.setDt 3).setSt 1).tickTimers.toneOut = [false] ∧
    post.tickTimers = post := by decide

/-- T9.1, T9.3: halted stays, and reset leaves it. -/
theorem test_halted : step (after (runs 0x00EE post)) = .next (after (runs 0x00EE post)) ∧
    (after (runs 0x00EE post)).resetOp = State.reset := by
  refine ⟨by rfl, by decide⟩

/-- T9.5, T9.6. -/
theorem test_load : (State.reset.loadProgram (List.replicate 3585 0)).phase = .loadFailed ∧
    (State.reset.loadProgram []).phase = .running := by
  constructor
  · unfold State.loadProgram
    rw [if_pos (show State.reset.phase = .ready from rfl), if_pos (by rw [List.length_replicate]; decide)]
    rfl
  · decide

/-- T9.8: a step before a load does nothing. -/
theorem test_ready : step State.reset = .next State.reset := by rfl

/-- P8, its fifth step: the stored word is the word fetched. -/
theorem test_self_modifying :
    let t := after (runs 0xF155 (((withRegs [(0, 0x12), (1, 0x08)]).setI 0x202)))
    (after t).pc = 0x208 ∧ (after t).diagOut = [] := by decide

/-! ## Witnesses: the hypotheses of each statement can be met -/

/-- The state after a call from 0x204 (T3.4). -/
def called : State := afterExec (.call 0x300) (post.setPc 0x206)

/-- The halted state of T3.6. -/
def halted : State := after (runs 0x00EE post)

/-- The state of a failed load (T9.5). -/
def loadFailed : State := State.reset.loadProgram (List.replicate 3585 0)

theorem loadFailed_phase : loadFailed.phase = .loadFailed := test_load.1

/-- `DecodeSelectsTheMatchingRow`: a word on each side of both equivalences. -/
theorem witness_DecodeSelectsTheMatchingRow :
    (decode 0x8F14 = .instr (.addReg 15 1) ∧ (Instr.addReg 15 1).row.selects 0x8F14 = true ∧
      encode (.addReg 15 1) = 0x8F14) ∧
    (decode 0xB300 = .unimplemented 0xB300 ∧ ∀ k : Fin 33, opcodeTable[k].selects 0xB300 = false) := by decide

/-- The only way to meet both hypotheses is with one row. -/
theorem witness_OpcodeRowsAreDisjoint :
    opcodeTable[(13 : Fin 33)].selects 0x8F14 = true ∧ opcodeTable[(13 : Fin 33)].selects 0x8F14 = true := by decide

/-- Class B, class 0 at its two ends, the last address a word is fetched from. -/
theorem witness_ClassBAndOtherClassZeroWordsAreNoOps :
    (let s := runs 0xBFFF (post.setPc 0xFFE)
     s.phase = .running ∧ s.wait = none ∧ s.pc.toNat + 1 ≤ 0xFFF ∧ classField s.fetchWord = 0xB) ∧
    (let s := runs 0x0FFF post
     s.phase = .running ∧ s.wait = none ∧ s.pc.toNat + 1 ≤ 0xFFF ∧ classField s.fetchWord = 0 ∧ s.fetchWord ≠ 0x00E0 ∧
       s.fetchWord ≠ 0x00EE) ∧
    (classField post.fetchWord = 0 ∧ post.fetchWord ≠ 0x00E0 ∧ post.fetchWord ≠ 0x00EE) := by decide

theorem witness_StepRunsTheDecodedInstruction :
    let s := runs 0x1234 (post.setPc 0xFFE)
    s.phase = .running ∧ s.wait = none ∧ s.pc.toNat + 1 ≤ 0xFFF ∧
      decode (wordOfBytes (s.byteAt s.pc.toNat) (s.byteAt (s.pc.toNat + 1))) = .instr (.jp 0x234) := by decide

/-- The two clauses, at the addresses where they meet. -/
theorem witness_FetchIsBigEndianAndBounded :
    post.phase = .running ∧ post.wait = none ∧ (post.setPc 0xFFF).pc.toNat + 1 > 0xFFF ∧
      (post.setPc 0xFFE).pc.toNat + 1 ≤ 0xFFF := by decide

theorem witness_UnimplementedWordIsNoOpWithDiag :
    let s := runs 0xF1FF (post.setPc 0xFFE)
    s.phase = .running ∧ s.wait = none ∧ s.pc.toNat + 1 ≤ 0xFFF ∧ wordImplemented s.fetchWord = false := by decide

theorem witness_StepOutsideRunningHasNoEffect :
    State.reset.phase ≠ .running ∧ halted.phase ≠ .running ∧ loadFailed.phase ≠ .running := by
  refine ⟨by decide, by decide, ?_⟩
  rw [loadFailed_phase]
  decide

/-- Both clauses: only the last key pressed, and none. -/
theorem witness_BlockedStepPollsTheKeys :
    (let s := holding 15 (post.setWait (some 3))
     s.phase = .running ∧ s.wait = some 3 ∧ s.key[(15 : RegIndex)] = true ∧ ∀ j : RegIndex, j < 15 → s.key[j] = false) ∧
    (let s := post.setWait (some 3)
     s.phase = .running ∧ s.wait = some 3 ∧ ∀ k : RegIndex, s.key[k] = false) := by decide

/-- A failed fetch, and an instruction's fault. -/
theorem witness_FaultsArePrecise :
    (let s := post.setPc 0xFFF
     s.phase = .running ∧ step s = .next (after s) ∧ (after s).phase ≠ .running) ∧
    (let s := runs 0x00EE post
     s.phase = .running ∧ step s = .next (after s) ∧ (after s).phase ≠ .running) := by
  refine ⟨⟨by decide, by rfl, by decide⟩, ⟨by decide, by rfl, by decide⟩⟩

/-- A cause and no cause, at the values where they meet. -/
theorem witness_InstructionsFaultExactlyAsTabled :
    faultCause (.ldB 0) (post.setI 0xFFE) = some (.memoryOutOfBounds, 0x1000) ∧
    faultCause (.ldB 0) (post.setI 0xFFD) = none ∧
    faultCause .ret post = some (.stackUnderflow, 0) ∧ faultCause .ret (post.setSp 1) = none ∧
    faultCause (.call 0x300) (post.setSp 16) = some (.stackOverflow, 16) ∧
    faultCause (.call 0x300) (post.setSp 15) = none ∧
    faultCause (.skp 5) (withRegs [(5, 16)]) = some (.keyOutOfRange, 16) ∧
    faultCause (.skp 5) (withRegs [(5, 15)]) = none ∧
    faultCause (.drw 0 1 2) (post.setI 0xFFF) = some (.memoryOutOfBounds, 0x1000) ∧
    faultCause (.drw 0 1 0) (post.setI 0xFFF) = none := by decide

/-- Both phases, and both clauses. -/
theorem witness_HaltedStateIsFinal :
    halted.phase = .halted ∧ loadFailed.phase = .loadFailed ∧ Op.setInput (Vector.replicate 16 true) ≠ .reset ∧
    Op.step ≠ .reset ∧ ∀ v, Op.step ≠ .setInput v :=
  ⟨by decide, loadFailed_phase, by decide, by decide, fun _ h => by cases h⟩

theorem witness_RunEndsOnlyByAFault :
    (let s := runs 0x00EE post
     s.phase = .running ∧ operate .step s = .next (after s) ∧ (after s).phase ≠ .running) ∧
    (operate .reset post = .next post.resetOp ∧ post.resetOp.phase ≠ .running) := by
  refine ⟨⟨by decide, by rfl, by decide⟩, ⟨by rfl, by decide⟩⟩

theorem witness_OperationsWriteOnlyTheirState :
    post.phase ≠ .ready ∧ operate .step (runs 0xF515 post) = .next (after (runs 0xF515 post)) := by
  refine ⟨by decide, by rfl⟩

/-- The four phases. -/
theorem witness_TickDecrementsBothTimers :
    State.reset.phase = .ready ∧ post.phase = .running ∧ halted.phase = .halted ∧ loadFailed.phase = .loadFailed :=
  ⟨by decide, by decide, by decide, loadFailed_phase⟩

/-- The first address of the font, and those beside it. -/
theorem witness_ResetPutsEveryElement :
    State.reset.params.fontBase.toNat + (79 : Fin 80).val ≤ 0xFFF ∧ 0x04F < State.reset.params.fontBase.toNat ∧
    State.reset.params.fontBase.toNat + 80 ≤ 0x0A0 := by decide

/-- The three clauses, at the lengths where they meet. -/
theorem witness_LoadProgramCopiesOrFails :
    State.reset.phase = .ready ∧ (List.replicate 3585 (0 : Byte)).length > 3584 ∧
    (List.replicate 3584 (0 : Byte)).length ≤ 3584 ∧ State.reset.memOk ∧ post.phase ≠ .ready := by
  refine ⟨by decide, ?_, ?_, by decide, by decide⟩ <;> simp only [List.length_replicate] <;> decide

theorem witness_StateAfterLoad : (List.replicate 3584 (0 : Byte)).length ≤ 3584 ∧ ([] : List Byte).length ≤ 3584 := by
  refine ⟨?_, by decide⟩
  rw [List.length_replicate]

/-- A change of `tone_on`, no change, and reset. -/
theorem witness_ToneEventsMarkEachChange :
    operate .tickTimers (post.setSt 1) = .next (post.setSt 1).tickTimers ∧
    (post.setSt 1).tickTimers.toneOn ≠ (post.setSt 1).toneOn ∧
    operate .tickTimers (post.setSt 2) = .next (post.setSt 2).tickTimers ∧
    (post.setSt 2).tickTimers.toneOn = (post.setSt 2).toneOn ∧
    operate .reset (post.setSt 1) = .next (post.setSt 1).resetOp := by
  refine ⟨by rfl, by decide, by rfl, by decide, by rfl⟩

theorem witness_StepKeepsTheInvariant :
    let s := runs 0x2300 post
    s.Inv ∧ step s = .next (after s) ∧ (after s).sp = 1 := by
  refine ⟨by decide, by rfl, by decide⟩

theorem witness_EveryOperationKeepsTheInvariant :
    State.reset.Inv ∧ operate (.loadProgram [0x12, 0x00]) State.reset = .next (State.reset.loadProgram [0x12, 0x00]) := by
  refine ⟨by decide, by rfl⟩

/-- A state a run reaches: reset, a load of one word, a step. -/
theorem witness_ReachableStatesHaveTheInvariant :
    Reachable paramsReset (after (State.reset.loadProgram [0x22, 0x00])) :=
  .operate .step (.operate (.loadProgram [0x22, 0x00]) (.construct 0) (by rfl)) (by rfl)

/-- Both clauses, at the values where they meet; a pixel that lands on a lit cell, and a sprite that lands on none. -/
theorem witness_DrwXorsTheSpriteAndSetsCollision :
    ((2 : Nibble).toNat = 0 ∨ (post.setI 0xFFE).i.toNat + (2 : Nibble).toNat - 1 ≤ 0xFFF) ∧
    (1 ≤ (3 : Nibble).toNat ∧ (post.setI 0xFFE).i.toNat + (3 : Nibble).toNat - 1 > 0xFFF) ∧
    (spriteLights 0 1 5 (toggled (0, 0) (post.setI 0x050)) (0, 0) ∧
      Display.cell (toggled (0, 0) (post.setI 0x050)).disp (0, 0) = true) ∧
    (¬ ∃ c, spriteLights 0 1 5 (post.setI 0x050) c ∧ Display.cell (post.setI 0x050).disp c = true) := by
  refine ⟨by decide, by decide, ⟨⟨0, by decide, 0, by decide, by decide, by decide, by decide⟩, by decide⟩, ?_⟩
  rintro ⟨c, -, h⟩
  simp [Display.cell, post, State.reset, State.setI] at h

/-- SP = 0, 1 and 16. -/
theorem witness_RetPopsTheReturnAddress :
    post.sp.val = 0 ∧ (post.setSp 1).sp.val = (0 : RegIndex).val + 1 ∧ (post.setSp 16).sp.val = (15 : RegIndex).val + 1 := by
  decide

/-- SP = 0, 15 and 16. -/
theorem witness_CallPushesTheReturnAddress :
    post.sp.val = (0 : RegIndex).val ∧ (post.setSp 15).sp.val = (15 : RegIndex).val ∧ (post.setSp 16).sp.val = 16 := by
  decide

theorem witness_SkipsOnAByte : (withRegs [(3, 0x12)]).reg 3 = 0x12 ∧ (withRegs [(3, 0x12)]).reg 3 ≠ 0x13 := by decide

theorem witness_SkipsOnARegister :
    (withRegs [(1, 7), (2, 7)]).reg 1 = (withRegs [(1, 7), (2, 7)]).reg 2 ∧
    (withRegs [(1, 7), (2, 8)]).reg 1 ≠ (withRegs [(1, 7), (2, 8)]).reg 2 := by decide

theorem witness_RetUndoesCall :
    (post.setPc 0x206).sp.val < 16 ∧ exec (.call 0x300) (post.setPc 0x206) = .next called ∧
    (called.setPc 0x300).stack = called.stack ∧ (called.setPc 0x300).sp = called.sp := by
  refine ⟨by decide, by rfl, by rfl, by rfl⟩

/-- `AddSetsCarry`, `SubSetsNotBorrow`, `ShrSetsTheBitShiftedOut`, `SubnSetsNotBorrow`, `ShlSetsTheBitShiftedOut`: a
destination that is not VF, and a third register. The other statements about one destination take a second register. -/
theorem witness_FlagInstructions : (1 : RegIndex) ≠ 15 ∧ (3 : RegIndex) ≠ 1 ∧ (3 : RegIndex) ≠ 15 := by decide

/-- `LdBStoresTheDigits`: both clauses, where they meet; bytes beside the three. -/
theorem witness_LdBStoresTheDigits :
    post.memOk ∧ (post.setI 0xFFD).i.toNat + 2 ≤ 0xFFF ∧ (post.setI 0xFFE).i.toNat + 2 > 0xFFF ∧
    0xFFC < (post.setI 0xFFD).i.toNat ∧ (post.setI 0xFFD).i.toNat + 3 ≤ 0x1000 := by decide

/-- `RegisterDumpStoresV0ToVx` and `RegisterLoadReadsV0ToVx`: both clauses, where they meet, at x = 0 and x = F. -/
theorem witness_RegisterDumpStoresV0ToVx :
    post.memOk ∧ (post.setI 0xFF0).i.toNat + (15 : RegIndex).val ≤ 0xFFF ∧
    (post.setI 0xFF1).i.toNat + (15 : RegIndex).val > 0xFFF ∧ (post.setI 0xFFF).i.toNat + (0 : RegIndex).val ≤ 0xFFF ∧
    (post.setI 0x1000).i.toNat + (0 : RegIndex).val > 0xFFF ∧ (0 : RegIndex) ≤ 15 := by decide

theorem witness_RegisterLoadReadsV0ToVx :
    (post.setI 0xFF0).i.toNat + (15 : RegIndex).val ≤ 0xFFF ∧ (post.setI 0xFF1).i.toNat + (15 : RegIndex).val > 0xFFF ∧
    (2 : RegIndex) ≤ 2 ∧ (2 : RegIndex) < 3 := by decide

theorem witness_DumpThenLoadRestoresTheRegisters :
    let s := (withRegs [(0, 1), (1, 2)]).setI 0xFFE
    let t := afterExec (.ldMemVx 1) s
    let u := t.setReg 0 9
    s.memOk ∧ s.i.toNat + (1 : RegIndex).val ≤ 0xFFF ∧ exec (.ldMemVx 1) s = .next t ∧ u.mem = t.mem ∧
      u.params = t.params ∧ u.i = t.i := by
  refine ⟨by decide, by decide, by rfl, by rfl, by rfl, by rfl⟩

theorem witness_FetchSeesStoredBytes :
    let s := (withRegs [(0, 0x12), (1, 8)]).setI 0x208
    s.memOk ∧ s.i.toNat + (1 : RegIndex).val ≤ 0xFFF ∧ exec (.ldMemVx 1) s = .next (afterExec (.ldMemVx 1) s) ∧
      (1 : RegIndex) ≤ 1 ∧ (1 : RegIndex).val = (0 : RegIndex).val + 1 ∧
      (0x208 : Word).toNat = s.i.toNat + (0 : RegIndex).val := by
  refine ⟨by decide, by decide, by rfl, by decide, by decide, by decide⟩

/-- Both clauses, where they meet, with the key pressed and released. -/
theorem witness_SkipsOnAKey :
    ((withRegs [(5, 15)]).reg 5).toNat = (15 : RegIndex).val ∧
    (holding 15 (withRegs [(5, 15)])).key[(15 : RegIndex)] = true ∧ (withRegs [(5, 15)]).key[(15 : RegIndex)] = false ∧
    16 ≤ ((withRegs [(5, 16)]).reg 5).toNat := by decide

/-- Both clauses. -/
theorem witness_WaitForKeyResolvesOrBlocks :
    ((holding 0 post).key[(0 : RegIndex)] = true ∧ ∀ j : RegIndex, j < 0 → (holding 0 post).key[j] = false) ∧
    ((holding 15 post).key[(15 : RegIndex)] = true ∧ ∀ j : RegIndex, j < 15 → (holding 15 post).key[j] = false) ∧
    ∀ k : RegIndex, post.key[k] = false := by decide

/-- The clauses: on, off, and no change in either state. -/
theorem witness_SoundTimerWriteNotifies :
    ((withRegs [(2, 1)]).st = 0 ∧ (withRegs [(2, 1)]).reg 2 ≠ 0) ∧
    ((post.setSt 1).st ≠ 0 ∧ (post.setSt 1).reg 2 = 0) ∧
    (post.st = 0 ↔ post.reg 2 = 0) ∧
    (((withRegs [(2, 3)]).setSt 5).st = 0 ↔ ((withRegs [(2, 3)]).setSt 5).reg 2 = 0) := by decide

theorem witness_OnlyTabledRegistersChange :
    let s := withRegs [(1, 200), (2, 100)]
    exec (.addReg 1 2) s = .next (afterExec (.addReg 1 2) s) ∧ writesReg (.addReg 1 2) 2 = false := by
  refine ⟨by rfl, by decide⟩

/-- The addresses beside the stored bytes, and an instruction that stores none. -/
theorem witness_OnlyStoredBytesChange :
    (let s := post.setI 0x300
     exec (.ldB 0) s = .next (afterExec (.ldB 0) s) ∧
       ∀ b n, storeSpan (.ldB 0) s = some (b, n) → 0x303 < b ∨ b + n ≤ 0x303) ∧
    (exec .cls post = .next (afterExec .cls post) ∧ storeSpan .cls post = none) := by
  refine ⟨⟨by rfl, ?_⟩, by rfl, by rfl⟩
  intro b n h
  cases h
  decide

/-- One instruction that none of the clauses names. -/
theorem witness_SpecialStateChangesOnlyWhereNamed :
    exec (.ldByte 1 2) post = .next (afterExec (.ldByte 1 2) post) ∧
    (∀ a x, Instr.ldByte 1 2 ≠ .ldI a ∧ Instr.ldByte 1 2 ≠ .addI x ∧ Instr.ldByte 1 2 ≠ .ldF x) ∧
    (∀ a, Instr.ldByte 1 2 ≠ .call a ∧ Instr.ldByte 1 2 ≠ .ret) ∧ (∀ x, Instr.ldByte 1 2 ≠ .ldDtVx x) ∧
    (∀ x, Instr.ldByte 1 2 ≠ .ldStVx x) ∧ (∀ x y n, Instr.ldByte 1 2 ≠ .cls ∧ Instr.ldByte 1 2 ≠ .drw x y n) ∧
    (∀ x, Instr.ldByte 1 2 ≠ .ldVxK x) ∧ (∀ x kk, Instr.ldByte 1 2 ≠ .rnd x kk) ∧
    faultCause (.ldByte 1 2) post = none := by
  refine ⟨by rfl, ?_, ?_, ?_, ?_, ?_, ?_, ?_, by rfl⟩ <;> simp

/-- A return whose entry is below SP, with other entries above it. -/
theorem witness_StackAboveSpIsUnobservable :
    let s := runs 0x00EE (called.setPc 0x300)
    (∀ j : RegIndex, j.val < s.sp.val → (s.stack.set 5 0xABC)[j] = s.stack[j]) ∧ s.stack.set 5 0xABC ≠ s.stack ∧
      step s = .next (after s) := by
  refine ⟨by decide, by decide, by rfl⟩

end Sys2Proof.Tests
end

section
/-! Encoding: what the decoder answers class by class (30_encoding.md R83), the round trip of encode and decode on words
and on bytes (R67, R84), and the step of a word that no instruction has (40_step_cycle.md R104). -/

namespace Sys2Proof

/-! ## The dispatch on the op class (R83) -/

variable {w : Word}

theorem decodeInstr_class0 (h : classField w = 0x0) : decodeInstr w = decodeClass0 w := by
  simp only [decodeInstr, h]

theorem decodeInstr_class8 (h : classField w = 0x8) : decodeInstr w = decodeClass8 w := by
  simp only [decodeInstr, h]

theorem decodeInstr_classB (h : classField w = 0xB) : decodeInstr w = none := by
  simp only [decodeInstr, h]

theorem decodeInstr_classE (h : classField w = 0xE) : decodeInstr w = decodeClassE w := by
  simp only [decodeInstr, h]

theorem decodeInstr_classF (h : classField w = 0xF) : decodeInstr w = decodeClassF w := by
  simp only [decodeInstr, h]

theorem decodeClass0_eq_none (hcls : w ≠ 0x00E0#16) (hret : w ≠ 0x00EE#16) : decodeClass0 w = none := by
  rw [decodeClass0, if_neg hcls, if_neg hret]

/-! ## Encode, then decode -/

/-- The dispatch of R83 gives back each instruction from the bit string of R84: the class field selects the arm, in
classes 5, 8, 9, E and F the fixed N or NN field selects within it, and the operands are the word's fields. -/
theorem decodeInstr_encode (i : Instr) : decodeInstr (encode i) = some i := by
  cases i with
  | cls | ret => rfl
  | jp nnn | call nnn | ldI nnn =>
    simp [encode, decodeInstr]
  | seByte x kk | sneByte x kk | ldByte x kk | addByte x kk | rnd x kk =>
    simp [encode, decodeInstr]
  | seReg x y | sneReg x y =>
    simp [encode, decodeInstr]
  | drw x y n =>
    simp [encode, decodeInstr]
  | ldReg x y | orReg x y | andReg x y | xorReg x y | addReg x y | subReg x y | shr x y | subnReg x y | shl x y =>
    rw [encode, decodeInstr_class8 (classField_encodeXYN ..)]
    simp [decodeClass8]
  | skp x | sknp x =>
    rw [encode, decodeInstr_classE (classField_encodeXNN ..)]
    simp [decodeClassE]
  | ldVxDt x | ldVxK x | ldDtVx x | ldStVx x | addI x | ldF x | ldB x | ldMemVx x | ldVxMem x =>
    rw [encode, decodeInstr_classF (classField_encodeXNN ..)]
    simp [decodeClassF]

theorem decode_of_some {i : Instr} (h : decodeInstr w = some i) : decode w = .instr i := by
  rw [decode, h]

theorem decode_of_none (h : decodeInstr w = none) : decode w = .unimplemented w := by
  rw [decode, h]

@[simp] theorem decode_encode (i : Instr) : decode (encode i) = .instr i :=
  decode_of_some (decodeInstr_encode i)

/-- The bytes in memory order, high byte first (R67), whatever bytes follow. -/
theorem decodeBytes_encodeBytes_append (i : Instr) (rest : List Byte) :
    decodeBytes (encodeBytes i ++ rest) = .word (.instr i) rest := by
  show DecodedBytes.word (decode (wordOfBytes (highByte (encode i)) (lowByte (encode i)))) rest = _
  rw [wordOfBytes_bytes, decode_encode]

end Sys2Proof

namespace Sys2Proof.Machine

/-! ## The step of a word that no instruction has (R104) -/

theorem step_of_decodeInstr_none {s : State} (hp : s.phase = .running) (hw : s.wait = none)
    (hpc : s.pc.toNat + 1 ≤ 0xFFF) (hd : decodeInstr s.fetchWord = none) :
    step s = .next (s.unimplemented s.fetchWord) := by
  have hk : s.stepKind = .noOp s.fetchWord := by
    rw [State.stepKind_fetch hp hw, State.fetchKind_in hpc, decode_of_none hd, decodedKind]
  rw [step, hk]

end Sys2Proof.Machine

open Sys2Proof Sys2Proof.Machine

/-- Settles O1: the round trip on the word gives the one on the bytes, because a word's two bytes give it back. -/
theorem decodeOfEncodeIsIdentity : Obligations.DecodeOfEncodeIsIdentity :=
  fun i rest => ⟨decode_encode i, decodeBytes_encodeBytes_append i rest⟩

/-- Settles O4: the dispatch of R83 finds no instruction in either class of word. -/
theorem classBAndOtherClassZeroWordsAreNoOps : Obligations.ClassBAndOtherClassZeroWordsAreNoOps := by
  intro s hp hw hpc hword
  have hd : decodeInstr s.fetchWord = none := by
    obtain hB | ⟨h0, hcls, hret⟩ := hword
    · exact decodeInstr_classB hB
    · rw [decodeInstr_class0 h0, decodeClass0_eq_none hcls hret]
  exact step_of_decodeInstr_none hp hw hpc hd

/-- Settles O5: ten fixed words, each decoded by evaluation. -/
theorem wordsFromTheSpecDecode : Obligations.WordsFromTheSpecDecode := by
  unfold Obligations.WordsFromTheSpecDecode
  decide
end

section
/-! StepCycle: the decoder's dispatch (30_encoding.md R83) against the opcode map (R84), and with it R102 and R104 of
40_step_cycle.md. An instruction's own row selects its word, a word is the encoding of what it decodes to, and a word
that some row selects agrees with the row in every field the dispatch reads. -/

namespace Sys2Proof

variable {w : Word}

/-! ## An instruction's own row (R84) -/

section OwnRow

open Laws Laws.EncodingFitsRow

theorem encodingFitsRow_all (i : Instr) : EncodingFitsRow.Statement i := by
  cases i
  exacts [cls, ret, jp _, call _, seByte _ _, sneByte _ _, seReg _ _, ldByte _ _, addByte _ _, ldReg _ _, orReg _ _,
    andReg _ _, xorReg _ _, addReg _ _, subReg _ _, shr _ _, subnReg _ _, shl _ _, sneReg _ _, ldI _, rnd _ _,
    drw _ _ _, skp _, sknp _, ldVxDt _, ldVxK _, ldDtVx _, ldStVx _, addI _, ldF _, ldB _, ldMemVx _, ldVxMem _]

theorem row_selects_encode (i : Instr) : i.row.selects (encode i) = true := (encodingFitsRow_all i).2

end OwnRow

/-! ## Decode, then encode -/

section Fields

variable {c n : Nibble} {kk : Byte}

theorem encodeXNN_of_fields (hc : classField w = c.toNat) (hkk : (nnField w).toNat = kk.toNat) :
    encodeXNN c (xField w) kk = w := by
  rw [← BitVec.eq_of_toNat_eq hkk, encodeXNN_fields c w hc]

theorem encodeXYN_of_fields (hc : classField w = c.toNat) (hn : (nField w).toNat = n.toNat) :
    encodeXYN c (xField w) (yField w) n = w := by
  rw [← BitVec.eq_of_toNat_eq hn, encodeXYN_fields c w hc]

end Fields

variable {i : Instr}

theorem encode_of_decodeClass0 (h : decodeClass0 w = some i) : encode i = w := by
  unfold decodeClass0 at h
  split at h
  next hw => cases h; exact hw.symm
  next =>
    split at h
    next hw => cases h; exact hw.symm
    next => cases h

theorem encode_of_decodeClass8 (hc : classField w = 0x8) (h : decodeClass8 w = some i) : encode i = w := by
  unfold decodeClass8 at h
  split at h
  case h_10 => cases h
  all_goals
    next hn => cases h; exact encodeXYN_of_fields hc hn

theorem encode_of_decodeClassE (hc : classField w = 0xE) (h : decodeClassE w = some i) : encode i = w := by
  unfold decodeClassE at h
  split at h
  case h_3 => cases h
  all_goals
    next hnn => cases h; exact encodeXNN_of_fields hc hnn

theorem encode_of_decodeClassF (hc : classField w = 0xF) (h : decodeClassF w = some i) : encode i = w := by
  unfold decodeClassF at h
  split at h
  case h_10 => cases h
  all_goals
    next hnn => cases h; exact encodeXNN_of_fields hc hnn

/-- The operands are the word's fields, and what the dispatch of R83 fixes is the rest of the word. -/
theorem encode_of_decodeInstr (h : decodeInstr w = some i) : encode i = w := by
  unfold decodeInstr at h
  split at h
  next => exact encode_of_decodeClass0 h
  next hc => cases h; exact encodeNNN_fields _ w hc
  next hc => cases h; exact encodeNNN_fields _ w hc
  next hc => cases h; exact encodeXNN_fields _ w hc
  next hc => cases h; exact encodeXNN_fields _ w hc
  next hc =>
    obtain ⟨hn, h⟩ := Option.ite_none_right_eq_some.1 h
    cases h; exact encodeXYN_of_fields hc (congrArg _ hn)
  next hc => cases h; exact encodeXNN_fields _ w hc
  next hc => cases h; exact encodeXNN_fields _ w hc
  next hc => exact encode_of_decodeClass8 hc h
  next hc =>
    obtain ⟨hn, h⟩ := Option.ite_none_right_eq_some.1 h
    cases h; exact encodeXYN_of_fields hc (congrArg _ hn)
  next hc => cases h; exact encodeNNN_fields _ w hc
  next => cases h
  next hc => cases h; exact encodeXNN_fields _ w hc
  next hc => cases h; exact encodeXYN_fields _ w hc
  next hc => exact encode_of_decodeClassE hc h
  next hc => exact encode_of_decodeClassF hc h
  next => cases h

theorem decodeInstr_eq_some_iff : decodeInstr w = some i ↔ encode i = w :=
  ⟨encode_of_decodeInstr, fun h => h ▸ decodeInstr_encode i⟩

theorem decode_eq_instr_iff : decode w = .instr i ↔ decodeInstr w = some i := by
  cases h : decodeInstr w <;> simp [decode, h]

theorem decode_eq_unimplemented_iff : decode w = .unimplemented w ↔ decodeInstr w = none := by
  cases h : decodeInstr w <;> simp [decode, h]

/-! ## A word that a row selects -/

/-- A word that an instruction's row selects agrees with the instruction's word in every bit the row fixes. -/
theorem and_mask_of_selects (h : i.row.selects w = true) : w &&& i.row.mask = encode i &&& i.row.mask :=
  (eq_of_beq h).trans (eq_of_beq (row_selects_encode i)).symm

section Masked

variable {u m : Word} {start len : Nat}

/-- A field that a mask keeps whole is the same in words that the mask makes equal. -/
theorem extractLsb'_eq_of_and_eq (h : w &&& m = u &&& m) (hm : m.extractLsb' start len = BitVec.allOnes len) :
    w.extractLsb' start len = u.extractLsb' start len := by
  have hx := congrArg (BitVec.extractLsb' start len) h
  rwa [BitVec.extractLsb'_and, BitVec.extractLsb'_and, hm, BitVec.and_allOnes, BitVec.and_allOnes] at hx

end Masked

/-- Every row of the map fixes the op class. -/
theorem opcodeTable_mask_class : ∀ k : Fin 33, opcodeTable[k].mask.extractLsb' 12 4 = BitVec.allOnes 4 := by decide

theorem classField_of_selects (h : i.row.selects w = true) : classField w = classField (encode i) :=
  congrArg BitVec.toNat (extractLsb'_eq_of_and_eq (and_mask_of_selects h) (opcodeTable_mask_class i.rowIndex))

theorem nField_of_selects (h : i.row.selects w = true) (hm : i.row.mask = 0xF00F) : nField w = nField (encode i) :=
  extractLsb'_eq_of_and_eq (and_mask_of_selects h) (hm ▸ rfl)

theorem nnField_of_selects (h : i.row.selects w = true) (hm : i.row.mask = 0xF0FF) :
    nnField w = nnField (encode i) :=
  extractLsb'_eq_of_and_eq (and_mask_of_selects h) (hm ▸ rfl)

theorem eq_encode_of_selects (h : i.row.selects w = true) (hm : i.row.mask = 0xFFFF) : w = encode i := by
  have hw := and_mask_of_selects h
  rw [hm] at hw
  exact (BitVec.and_allOnes ..).symm.trans (hw.trans (BitVec.and_allOnes ..))

/-- The dispatch of R83 reads only bits that the selecting row fixes, so it finds an instruction. -/
theorem isSome_decodeInstr_of_selects (h : i.row.selects w = true) : (decodeInstr w).isSome := by
  have hc := classField_of_selects h
  cases i with
  | cls | ret =>
    rw [eq_encode_of_selects h rfl, decodeInstr_encode, Option.isSome_some]
  | jp | call | ldI | seByte | sneByte | ldByte | addByte | rnd | drw =>
    simp [decodeInstr, hc, encode]
  | seReg | sneReg =>
    have hn := nField_of_selects h rfl
    simp [decodeInstr, hc, hn, encode]
  | ldReg | orReg | andReg | xorReg | addReg | subReg | shr | subnReg | shl =>
    have hn := nField_of_selects h rfl
    rw [decodeInstr_class8 (hc.trans (classField_encodeXYN ..))]
    simp [decodeClass8, hn, encode]
  | skp | sknp =>
    have hnn := nnField_of_selects h rfl
    rw [decodeInstr_classE (hc.trans (classField_encodeXNN ..))]
    simp [decodeClassE, hnn, encode]
  | ldVxDt | ldVxK | ldDtVx | ldStVx | addI | ldF | ldB | ldMemVx | ldVxMem =>
    have hnn := nnField_of_selects h rfl
    rw [decodeInstr_classF (hc.trans (classField_encodeXNN ..))]
    simp [decodeClassF, hnn, encode]

/-- Each row is an instruction's: the one its pattern, with every operand 0, decodes to. -/
theorem exists_rowIndex_eq (k : Fin 33) : ∃ i : Instr, i.rowIndex = k := by
  have h : ∀ k : Fin 33, (decodeInstr opcodeTable[k].pattern).map Instr.rowIndex = some k := by decide
  obtain ⟨i, -, hi⟩ := Option.map_eq_some_iff.1 (h k)
  exact ⟨i, hi⟩

/-- The dispatch of R83 finds no instruction exactly if no row of R84 selects the word. -/
theorem decodeInstr_eq_none_iff : decodeInstr w = none ↔ ∀ k : Fin 33, opcodeTable[k].selects w = false := by
  constructor
  · intro hd k
    obtain ⟨i, rfl⟩ := exists_rowIndex_eq k
    refine Bool.eq_false_iff.2 fun hsel => ?_
    have hsome := isSome_decodeInstr_of_selects (i := i) hsel
    rw [hd] at hsome
    cases hsome
  · intro hrows
    refine Option.eq_none_iff_forall_ne_some.2 fun i hd => ?_
    have hsel := row_selects_encode i
    rw [encode_of_decodeInstr hd] at hsel
    exact Bool.eq_false_iff.1 (hrows i.rowIndex) hsel

theorem wordImplemented_eq_false_iff :
    wordImplemented w = false ↔ ∀ k : Fin 33, opcodeTable[k].selects w = false := by
  simp [wordImplemented, Fin.forall_iff, Vector.any_eq_false]

end Sys2Proof

open Sys2Proof Sys2Proof.Machine

/-- Settles O2: an instruction's row selects its word and no word but its own decodes to it; the dispatch of R83 finds
none exactly where the map of R84 has no row. -/
theorem decodeSelectsTheMatchingRow : Obligations.DecodeSelectsTheMatchingRow := by
  intro w
  refine ⟨fun i => ?_, decode_eq_unimplemented_iff.trans decodeInstr_eq_none_iff⟩
  rw [decode_eq_instr_iff, decodeInstr_eq_some_iff]
  exact ⟨fun h => ⟨h ▸ row_selects_encode i, h⟩, And.right⟩

/-- Settles O8: a word that no row of the map selects decodes to no instruction. -/
theorem unimplementedWordIsNoOpWithDiag : Obligations.UnimplementedWordIsNoOpWithDiag := by
  intro s hp hw hpc himpl
  exact step_of_decodeInstr_none hp hw hpc (decodeInstr_eq_none_iff.2 (wordImplemented_eq_false_iff.1 himpl))
end

section
/-! Display, and what an instruction changes: 00E0 turns every cell off (41_display.md R120), and an instruction raises
the fault of its cause or completes, changing only the special state it is named for (10_state.md R25-R36). -/

namespace Sys2Proof.Machine

variable {s t : State} {i : Instr}

@[simp] theorem Display.off_cell (c : CellPos) : Display.cell Display.off c = false := by
  simp [Display.cell, Display.off]

/-! ## The fault of a range check (R65) -/

/-- The cause of MemoryOutOfBounds for an access of `len` bytes at `base`. -/
def rangeCause (base len : Nat) : Option (Fault × Nat) := (checkRange base len).map (.memoryOutOfBounds, ·)

theorem rangeCause_eq (base len : Nat) :
    rangeCause base len =
      if 1 ≤ len ∧ base + len - 1 > 0xFFF then some (.memoryOutOfBounds, max base 0x1000) else none :=
  apply_ite (Option.map _) ..

theorem faultCause_drw (x y : RegIndex) (n : Nibble) : faultCause (.drw x y n) s = rangeCause s.i.toNat n.toNat :=
  (rangeCause_eq ..).symm

theorem faultCause_ldB (x : RegIndex) : faultCause (.ldB x) s = rangeCause s.i.toNat 3 := by
  simp [faultCause, rangeCause_eq]

theorem faultCause_ldMemVx (x : RegIndex) : faultCause (.ldMemVx x) s = rangeCause s.i.toNat (x.val + 1) := by
  simp [faultCause, rangeCause_eq, ← Nat.add_assoc]

theorem faultCause_ldVxMem (x : RegIndex) : faultCause (.ldVxMem x) s = rangeCause s.i.toNat (x.val + 1) :=
  faultCause_ldMemVx x

/-! ## What a completed instruction changes -/

/-- What an instruction that raises no fault may change: the registers, PC and memory, and for the instructions named
the piece of special state that is theirs. -/
inductive Completes (s : State) : Instr → State → Prop
  | plain (i v pc mem) : Completes s i { s with v := v, pc := pc, mem := mem }
  | cls (disp) : Completes s .cls { s with disp := disp }
  | drw (x y n v disp) : Completes s (.drw x y n) { s with v := v, disp := disp }
  | ret (pc sp) : Completes s .ret { s with pc := pc, sp := sp }
  | call (nnn pc sp stack) : Completes s (.call nnn) { s with pc := pc, sp := sp, stack := stack }
  | ldI (nnn a) : Completes s (.ldI nnn) { s with i := a }
  | addI (x a) : Completes s (.addI x) { s with i := a }
  | ldF (x a) : Completes s (.ldF x) { s with i := a }
  | rnd (x kk v n) : Completes s (.rnd x kk) { s with v := v, rngDraws := n }
  | ldVxK (x w) : Completes s (.ldVxK x) { s with wait := w }
  | ldDtVx (x b) : Completes s (.ldDtVx x) { s with dt := b }
  | ldStVx (x b out) : Completes s (.ldStVx x) { s with st := b, toneOut := out }

theorem Completes.skipIf (c : Bool) : Completes s i (s.skipIf c) := by
  rw [State.skipIf_eq]; exact .plain ..

theorem Completes.setSound (x : RegIndex) (b : Byte) : Completes s (.ldStVx x) (s.setSound b) := by
  rw [State.setSound_eq]; exact .ldStVx ..

/-- The instruction raises the fault of its cause (R240), or it has none and completes. -/
def FaultsOrCompletes (i : Instr) (s : State) : Prop :=
  (∃ k v, faultCause i s = some (k, v) ∧ exec i s = s.raise i k v) ∨
  (faultCause i s = none ∧ ∃ t, exec i s = .next t ∧ Completes s i t)

theorem FaultsOrCompletes.of_raise {k : Fault} {v : Nat} (hf : faultCause i s = some (k, v))
    (h : exec i s = s.raise i k v) : FaultsOrCompletes i s := .inl ⟨k, v, hf, h⟩

theorem FaultsOrCompletes.of_next (hf : faultCause i s = none) (h : exec i s = .next t) (c : Completes s i t) :
    FaultsOrCompletes i s := .inr ⟨hf, t, h, c⟩

theorem FaultsOrCompletes.of_inRange {base len : Nat} (hf : faultCause i s = rangeCause base len)
    (h : exec i s = s.inRange i base len t) (c : Completes s i t) : FaultsOrCompletes i s := by
  cases hr : checkRange base len with
  | none => exact .of_next (by rw [hf, rangeCause, hr, Option.map_none]) (h.trans (State.inRange_of_none hr)) c
  | some a => exact .of_raise (by rw [hf, rangeCause, hr, Option.map_some]) (h.trans (State.inRange_of_some hr))

theorem exec_faultsOrCompletes (i : Instr) (s : State) : FaultsOrCompletes i s := by
  cases i with
  | ret =>
    by_cases h : s.sp.val = 0
    · exact .of_raise (if_pos h) (execRet_of_empty h)
    · exact .of_next (if_neg h) (execRet_of_pos (by omega)) (.ret ..)
  | call nnn =>
    by_cases h : s.sp.val = 16
    · exact .of_raise (if_pos h) (execCall_of_full nnn h)
    · exact .of_next (if_neg h) (execCall_of_lt nnn (by omega)) (.call ..)
  | skp x =>
    by_cases h : 16 ≤ (s.reg x).toNat
    · exact .of_raise (if_pos h) (execSkp_of_ge h)
    · exact .of_next (if_neg h) (execSkp_of_lt (by omega)) (.skipIf _)
  | sknp x =>
    by_cases h : 16 ≤ (s.reg x).toNat
    · exact .of_raise (if_pos h) (execSknp_of_ge h)
    · exact .of_next (if_neg h) (execSknp_of_lt (by omega)) (.skipIf _)
  | ldVxK x =>
    cases h : s.firstPressed with
    | some k => exact .of_next rfl (execLdVxK_of_some h) (.plain ..)
    | none => exact .of_next rfl (execLdVxK_of_none h) (.ldVxK ..)
  | drw x y n => exact .of_inRange (faultCause_drw ..) rfl (.drw ..)
  | ldB x => exact .of_inRange (faultCause_ldB x) rfl (.plain ..)
  | ldMemVx x => exact .of_inRange (faultCause_ldMemVx x) rfl (.plain ..)
  | ldVxMem x => exact .of_inRange (faultCause_ldVxMem x) rfl (.plain ..)
  | seByte | sneByte | seReg | sneReg => exact .of_next rfl rfl (.skipIf _)
  | cls => exact .of_next rfl rfl (.cls _)
  | ldI nnn => exact .of_next rfl rfl (.ldI ..)
  | addI x => exact .of_next rfl rfl (.addI ..)
  | ldF x => exact .of_next rfl rfl (.ldF ..)
  | rnd x kk => exact .of_next rfl rfl (.rnd ..)
  | ldDtVx x => exact .of_next rfl rfl (.ldDtVx ..)
  | ldStVx x => exact .of_next rfl rfl (.setSound ..)
  | jp | ldByte | addByte | ldReg | orReg | andReg | xorReg | addReg | subReg | shr | subnReg | shl | ldVxDt =>
    exact .of_next rfl rfl (.plain ..)

/-- Everything an instruction that answers a next state can have done. -/
theorem exec_next_cases (h : exec i s = .next t) :
    (∃ k v, faultCause i s = some (k, v) ∧ t = s.enterFault (s.pc - 2) (some (encode i)) k v) ∨
    (faultCause i s = none ∧ Completes s i t) := by
  obtain ⟨k, v, hf, hx⟩ | ⟨hf, u, hx, hc⟩ := exec_faultsOrCompletes i s
  · cases h.symm.trans hx
    exact .inl ⟨k, v, hf, rfl⟩
  · cases h.symm.trans hx
    exact .inr ⟨hf, hc⟩

end Sys2Proof.Machine

open Sys2Proof Sys2Proof.Machine

/-- Settles O27: the display that 00E0 leaves is `Display.off`, and it leaves the rest of the state. -/
theorem clsTurnsEveryCellOff : Obligations.ClsTurnsEveryCellOff :=
  fun s => ⟨s.setDisp Display.off, rfl, Display.off_cell, rfl⟩

/-- Settles O57: a fault touches PC, FAULT and PHASE only, and an instruction that completes touches only the special
state of its own constructor of `Completes`. -/
theorem specialStateChangesOnlyWhereNamed : Obligations.SpecialStateChangesOnlyWhereNamed := by
  intro i s t h
  obtain ⟨k, v, hf, rfl⟩ | ⟨-, hc⟩ := exec_next_cases h
  · simp [hf]
  · cases hc with
    | plain => simp
    | cls | drw | ret | call | ldI | addI | ldF | rnd | ldVxK | ldDtVx | ldStVx => simp
end

section
/-! Control flow: a jump puts its address into PC (42_control_flow.md R141), a skip advances PC once more exactly when
its comparison says so (R143-R146, R105), and a return pops what a call pushed (R140, R142). -/

namespace Sys2Proof.Machine

variable {s t u : State}

@[simp] theorem zextAddr_toNat (nnn : Addr) : (zextAddr nnn).toNat = nnn.toNat :=
  BitVec.toNat_setWidth_of_le (by decide)

/-! ## Skips (R105) -/

/-- An instruction that is a skip on `c` completes and changes PC only: by 2 where `p` makes `c` hold, by nothing where
`q` makes it fail. -/
theorem exists_next_of_skipIf {i : Instr} {c : Bool} {p q : Prop} (h : exec i s = .next (s.skipIf c))
    (hp : p → c = true) (hq : q → c = false) :
    ∃ t, exec i s = .next t ∧ (p → t.pc = s.pc + 2) ∧ (q → t.pc = s.pc) ∧ t = { s with pc := t.pc } := by
  rw [State.skipIf_eq] at h
  exact ⟨_, h, fun hp' => if_pos (hp hp'), fun hq' => if_neg (Bool.eq_false_iff.1 (hq hq')), rfl⟩

/-! ## A pop after a push (R27) -/

/-- A push leaves its value and SP for the pop of any state with the same stack and SP. -/
theorem State.pop_of_push {a : Word} (h : s.push a = some t) (hstack : u.stack = t.stack) (hsp : u.sp = t.sp) :
    u.pop = some (a, u.setSp s.sp) := by
  by_cases hlt : s.sp.val < 16
  · obtain rfl := Option.some.inj ((push_of_lt hlt).symm.trans h)
    have hval : u.sp.val = s.sp.val + 1 := congrArg Fin.val hsp
    rw [pop_of_pos (by omega)]
    simp [hstack, hval]
  · rw [push_of_full (by omega)] at h
    cases h

/-- A call that has room pushes PC (R142). -/
theorem push_of_execCall {nnn : Addr} (hlt : s.sp.val < 16) (h : execCall nnn s = .next t) :
    ∃ t', s.push s.pc = some t' ∧ t = t'.setPc (zextAddr nnn) := by
  rw [execCall_of_lt nnn hlt] at h
  cases h
  exact ⟨_, State.push_of_lt hlt, rfl⟩

theorem execRet_of_pop {a : Word} (h : s.pop = some (a, t)) : execRet s = .next (t.setPc a) := by
  rw [execRet, h]

end Sys2Proof.Machine

open Sys2Proof Sys2Proof.Machine

/-- Settles O34: the return pops the PC that the call pushed, and the call's jump leaves the stack and SP. -/
theorem retUndoesCall : Obligations.RetUndoesCall := by
  intro s t u nnn hlt hcall hstack hsp
  obtain ⟨t', hpush, rfl⟩ := push_of_execCall hlt hcall
  exact ⟨_, execRet_of_pop (State.pop_of_push hpush hstack hsp), rfl, rfl, rfl⟩

/-- Settles O30: the state after 1NNN is `s.setPc (zextAddr nnn)`. -/
theorem jpSetsPc : Obligations.JpSetsPc :=
  fun s nnn => ⟨s.setPc (zextAddr nnn), rfl, zextAddr_toNat nnn, rfl⟩

/-- Settles O32: 3XNN is a skip on equality with the byte, 4XNN one on its negation. -/
theorem skipsOnAByte : Obligations.SkipsOnAByte := fun _ _ _ =>
  ⟨exists_next_of_skipIf rfl beq_iff_eq.2 beq_eq_false_iff_ne.2,
    exists_next_of_skipIf rfl bne_iff_ne.2 bne_eq_false_iff_eq.2⟩

/-- Settles O33: 5XY0 is a skip on equality of the registers, 9XY0 one on its negation. -/
theorem skipsOnARegister : Obligations.SkipsOnARegister := fun _ _ _ =>
  ⟨exists_next_of_skipIf rfl beq_iff_eq.2 beq_eq_false_iff_ne.2,
    exists_next_of_skipIf rfl bne_iff_ne.2 bne_eq_false_iff_eq.2⟩
end

section
/-! ALU: an instruction that writes one register leaves the others (43_alu.md R162-R167), one that writes a result and a
flag leaves the flag in VF (R161, R168-R172), and each byte operation is its arithmetic modulo 256 or its shift. -/

namespace Sys2Proof.Machine

/-! ## The byte operations as arithmetic (R163, R168, R169, R171) -/

section ByteArithmetic

variable (a b : Byte)

theorem sum8_toNat : (sum8 a b).toNat = (a.toNat + b.toNat) % 256 := BitVec.toNat_ofNat ..

theorem diff8_toNat : (diff8 a b).toNat = (a.toNat + 256 - b.toNat) % 256 := BitVec.toNat_ofNat ..

theorem flagByte_toNat (p : Prop) [Decidable p] : (flagByte (decide p)).toNat = if p then 1 else 0 := by
  by_cases h : p <;> simp [flagByte, h]

theorem carryFlag_toNat : (carryFlag a b).toNat = if a.toNat + b.toNat > 255 then 1 else 0 := flagByte_toNat _

theorem noBorrowFlag_toNat : (noBorrowFlag a b).toNat = if a.toNat ≥ b.toNat then 1 else 0 := flagByte_toNat _

/-! ## The shifts and the bits they drop (R170, R172) -/

theorem half8_eq : half8 a = a >>> 1 := by
  refine BitVec.eq_of_toNat_eq ?_
  have hlt : a.toNat / 2 < 256 := by omega
  rw [half8, BitVec.toNat_ofNat, Nat.mod_eq_of_lt hlt, BitVec.toNat_ushiftRight, Nat.shiftRight_eq_div_pow, pow_one]

theorem double8_eq : double8 a = a <<< 1 := by
  refine BitVec.eq_of_toNat_eq ?_
  rw [double8, BitVec.toNat_ofNat, BitVec.toNat_shiftLeft, Nat.shiftLeft_eq, pow_one]

theorem lowBitFlag_eq : lowBitFlag a = a &&& 1 := by
  refine BitVec.eq_of_toNat_eq ?_
  have hlt : a.toNat % 2 < 256 := by omega
  rw [lowBitFlag, BitVec.toNat_ofNat, Nat.mod_eq_of_lt hlt, BitVec.toNat_and]
  exact (Nat.and_one_is_mod _).symm

/-- Bit 7 is the low bit of the byte shifted right by 7. -/
theorem highBitFlag_eq : highBitFlag a = (a >>> 7) &&& 1 := by
  rw [← lowBitFlag_eq, lowBitFlag, BitVec.toNat_ushiftRight, Nat.shiftRight_eq_div_pow]
  rfl

end ByteArithmetic

/-! ## Instructions that write registers only -/

variable {s : State} {i : Instr} {x : RegIndex} {b f : Byte} {p q : Byte → Prop}

/-- An instruction that puts `b` into V[x] and does nothing else: what holds of `b` holds of V[x]. -/
theorem exists_next_of_setReg (h : exec i s = .next (s.setReg x b)) (hb : p b) :
    ∃ t, exec i s = .next t ∧ p (t.reg x) ∧ (∀ j, j ≠ x → t.reg j = s.reg j) ∧ t = { s with v := t.v } := by
  refine ⟨_, h, ?_, fun j hj => ?_, rfl⟩
  · rwa [State.setReg_reg, if_pos rfl]
  · rw [State.setReg_reg, if_neg hj]

/-- An instruction that puts `b` into V[x] and then `f` into VF (R161): what holds of `f` holds of VF, and what holds of
`b` holds of V[x] unless the flag replaced it. -/
theorem exists_next_of_setRegFlag (h : exec i s = .next (s.setRegFlag x b f)) (hb : p b) (hf : q f) :
    ∃ t, exec i s = .next t ∧ (x ≠ 15 → p (t.reg x)) ∧ q (t.reg 15) ∧
      (∀ j, j ≠ x → j ≠ 15 → t.reg j = s.reg j) ∧ t = { s with v := t.v } := by
  refine ⟨_, h, fun hx => ?_, ?_, fun j hj hj' => ?_, rfl⟩
  · rwa [State.setRegFlag_reg, if_neg hx, if_pos rfl]
  · rwa [State.setRegFlag_reg, if_pos rfl]
  · rw [State.setRegFlag_reg, if_neg hj', if_neg hj]

end Sys2Proof.Machine

open Sys2Proof Sys2Proof.Machine

/-- Settles O37: 8XY4 writes the sum, then the carry. -/
theorem addSetsCarry : Obligations.AddSetsCarry := fun _ _ _ =>
  exists_next_of_setRegFlag (p := (·.toNat = _)) (q := (·.toNat = _)) rfl (sum8_toNat ..) (carryFlag_toNat ..)

/-- Settles O38: 8XY5 writes the difference V[x] - V[y], then its not-borrow. -/
theorem subSetsNotBorrow : Obligations.SubSetsNotBorrow := fun _ _ _ =>
  exists_next_of_setRegFlag (p := (·.toNat = _)) (q := (·.toNat = _)) rfl (diff8_toNat ..) (noBorrowFlag_toNat ..)

/-- Settles O39: 8XY6 writes the half, then the low bit, and its result does not mention y. -/
theorem shrSetsTheBitShiftedOut : Obligations.ShrSetsTheBitShiftedOut := by
  intro s x y
  obtain ⟨t, ht, hx, hflag, hrest, hframe⟩ :=
    exists_next_of_setRegFlag (i := .shr x y) (p := (· = _)) (q := (· = _)) rfl (half8_eq (s.reg x))
      (lowBitFlag_eq _)
  exact ⟨t, ht, hx, hflag, hrest, hframe, fun _ => ht⟩

/-- Settles O40: 8XY7 writes the difference V[y] - V[x], then its not-borrow. -/
theorem subnSetsNotBorrow : Obligations.SubnSetsNotBorrow := fun _ _ _ =>
  exists_next_of_setRegFlag (p := (·.toNat = _)) (q := (·.toNat = _)) rfl (diff8_toNat ..) (noBorrowFlag_toNat ..)

/-- Settles O41: 8XYE writes the double, then the high bit, and its result does not mention y. -/
theorem shlSetsTheBitShiftedOut : Obligations.ShlSetsTheBitShiftedOut := by
  intro s x y
  obtain ⟨t, ht, hx, hflag, hrest, hframe⟩ :=
    exists_next_of_setRegFlag (i := .shl x y) (p := (· = _)) (q := (· = _)) rfl (double8_eq (s.reg x))
      (highBitFlag_eq _)
  exact ⟨t, ht, hx, hflag, hrest, hframe, fun _ => ht⟩

/-- Settles O35: 6XNN writes the byte itself, 7XNN the sum. -/
theorem loadAndAddByte : Obligations.LoadAndAddByte := fun _ _ _ =>
  ⟨exists_next_of_setReg (p := (· = _)) rfl rfl, exists_next_of_setReg (p := (·.toNat = _)) rfl (sum8_toNat ..)⟩

/-- Settles O36: each of 8XY0 to 8XY3 writes its result into V[x] and no flag. -/
theorem loadAndLogicOnRegisters : Obligations.LoadAndLogicOnRegisters := fun _ _ _ =>
  ⟨exists_next_of_setReg (p := (· = _)) rfl rfl, exists_next_of_setReg (p := (· = _)) rfl rfl,
    exists_next_of_setReg (p := (· = _)) rfl rfl, exists_next_of_setReg (p := (· = _)) rfl rfl⟩
end

section
/-! Index register: ANNN puts its address, zero-extended, into I (44_index_memory.md R190). -/

open Sys2Proof Sys2Proof.Machine

/-- Settles O42: the state after ANNN is `s.setI (zextAddr nnn)`, and zero extension keeps the address. -/
theorem ldISetsIndex : Obligations.LdISetsIndex :=
  fun s nnn => ⟨s.setI (zextAddr nnn), rfl, zextAddr_toNat nnn, rfl⟩
end

section
/-! Timers: FX07 copies DT into a register and FX15 copies a register into DT (47_timers.md R230, R231); FX18 copies a
register into ST and notifies the host exactly when that turns the tone on or off (R232, R55). -/

namespace Sys2Proof.Machine

variable {s : State} {b : Byte}

/-! ## The outputs that follow the timers (R30) -/

theorem State.setDt_delayZero : (s.setDt b).delayZero = decide (b = 0) := rfl

theorem State.toneOn_iff : s.toneOn = true ↔ s.st ≠ 0 := by simp [State.toneOn, State.soundZero]

/-- The tone of ST `b` is the tone of the state exactly when ST and `b` are zero together. -/
theorem State.toneOn_same_iff : (b != 0) = s.toneOn ↔ (s.st = 0 ↔ b = 0) := by
  rw [Bool.eq_iff_iff, bne_iff_ne, State.toneOn_iff, not_iff_not]
  exact iff_comm

/-! ## A write to ST (R55, R232) -/

theorem State.setSound_st : (s.setSound b).st = b := by rw [State.setSound_eq]

theorem State.setSound_toneOut :
    (s.setSound b).toneOut = s.toneOut ++ if s.st = 0 ↔ b = 0 then [] else [b != 0] := by
  simp only [State.setSound_eq, State.toneOn_same_iff]

theorem State.setSound_toneOut_of_on (hst : s.st = 0) (hb : b ≠ 0) :
    (s.setSound b).toneOut = s.toneOut ++ [true] := by
  rw [State.setSound_toneOut, if_neg fun h => hb (h.1 hst), bne_iff_ne.2 hb]

theorem State.setSound_toneOut_of_off (hst : s.st ≠ 0) (hb : b = 0) :
    (s.setSound b).toneOut = s.toneOut ++ [false] := by
  rw [State.setSound_toneOut, if_neg fun h => hst (h.2 hb), bne_eq_false_iff_eq.2 hb]

theorem State.setSound_toneOut_of_same (h : s.st = 0 ↔ b = 0) : (s.setSound b).toneOut = s.toneOut := by
  rw [State.setSound_toneOut, if_pos h, List.append_nil]

theorem State.setSound_frame :
    s.setSound b = { s with st := (s.setSound b).st, toneOut := (s.setSound b).toneOut } := by
  rw [State.setSound_eq]

end Sys2Proof.Machine

open Sys2Proof Sys2Proof.Machine

/-- Settles O54: the state after FX18 is `s.setSound (s.reg x)`, whose tone events are told apart by whether ST and V[x]
are zero. -/
theorem soundTimerWriteNotifies : Obligations.SoundTimerWriteNotifies := fun s x =>
  ⟨s.setSound (s.reg x), rfl, State.setSound_st, State.setSound_toneOut_of_on, State.setSound_toneOut_of_off,
    State.setSound_toneOut_of_same, State.setSound_frame⟩

/-- Settles O53: FX07 writes one register, and the state after FX15 is `s.setDt (s.reg x)`. -/
theorem delayTimerReadAndWrite : Obligations.DelayTimerReadAndWrite := fun s x =>
  ⟨exists_next_of_setReg (p := (· = _)) rfl rfl, s.setDt (s.reg x), rfl, rfl, State.setDt_delayZero, rfl⟩
end

section
/-! The timer tick: in phases ready and running it takes one from each timer, stopping at 0, and reports tone(off) when
ST was 1; in halted and load_failed it leaves the state (60_exceptions.md R260, R242). -/

namespace Sys2Proof.Machine

variable {s : State}

theorem ticked_toNat (b : Byte) : (ticked b).toNat = b.toNat - 1 := by
  by_cases h : b = 0
  · simp [ticked, h]
  · have hle : 1#8 ≤ b := BitVec.le_def.2 (BitVec.toNat_pos_of_ne_zero h)
    rw [ticked, if_neg h]
    exact BitVec.toNat_sub_of_le hle

theorem State.tickBoth_eq (s : State) :
    s.tickBoth = { s with
      dt := ticked s.dt, st := ticked s.st, toneOut := s.toneOut ++ if s.st = 1 then [false] else [] } := by
  by_cases h : s.st = 1
  · rw [State.tickBoth, if_pos h, if_pos h]
    rfl
  · rw [State.tickBoth, if_neg h, if_neg h, List.append_nil]
    rfl

theorem State.tickTimers_of_ready_or_running (h : s.phase = .ready ∨ s.phase = .running) :
    s.tickTimers = s.tickBoth := by
  obtain h | h := h <;> rw [State.tickTimers, h]

theorem State.tickTimers_of_halted_or_loadFailed (h : s.phase = .halted ∨ s.phase = .loadFailed) :
    s.tickTimers = s := by
  obtain h | h := h <;> rw [State.tickTimers, h]

end Sys2Proof.Machine

open Sys2Proof Sys2Proof.Machine

/-- Settles O17: the phase says whether the tick is `State.tickBoth` or nothing, and `State.tickBoth` changes the two
timers and the tone events only. -/
theorem tickDecrementsBothTimers : Obligations.TickDecrementsBothTimers := by
  refine fun s => ⟨fun hp => ?_, fun hp => congrArg Host.Outcome.next (State.tickTimers_of_halted_or_loadFailed hp)⟩
  have htick : s.tickTimers = _ := (State.tickTimers_of_ready_or_running hp).trans s.tickBoth_eq
  exact ⟨_, congrArg Host.Outcome.next htick, ticked_toNat s.dt, ticked_toNat s.st, rfl, rfl⟩
end

section
/-! Frames: what an instruction can do to the registers, memory, PC and the stack, faults included; with it, the
register table of 10_state.md R22 and the memory frame of 20_memory.md R62, R64. -/

namespace Sys2Proof.Machine

variable {s t : State} {i : Instr} {x : RegIndex} {b f : Byte}

/-- Where PC can be after an instruction: where the fetch left it, one skip on, back at the instruction that faulted, at
a 12-bit target, or at an entry of the stack. -/
inductive PcFrom (s : State) : Word → Prop
  | fetch : PcFrom s s.pc
  | skip : PcFrom s (s.pc + 2)
  | fault : PcFrom s (s.pc - 2)
  | target (nnn : Addr) : PcFrom s (zextAddr nnn)
  | entry (j : RegIndex) : PcFrom s s.stack[j]

/-- What the instruction may have done to reach `t`: registers outside its row of the table stay, memory stays but for a
store to its span, PC is from one of five places, and the stack stays but for PC pushed. -/
structure Touches (s : State) (i : Instr) (t : State) : Prop where
  params : t.params = s.params := by rfl
  reg : ∀ j, writesReg i j = false → t.reg j = s.reg j := by exact fun _ _ => rfl
  mem : t.mem = s.mem ∨
    ∃ a bs, storeSpan i s = some (a, bs.length) ∧ t.mem = Memory.writeBytes s.params s.mem a bs := by exact .inl rfl
  pc : PcFrom s t.pc := by exact .fetch
  stack : t.stack = s.stack ∨ ∃ k : RegIndex, t.stack = s.stack.set k s.pc := by exact .inl rfl

/-! ## Each kind of effect -/

theorem Touches.raise (s : State) (i : Instr) (k : Fault) (v : Nat) :
    Touches s i (s.enterFault (s.pc - 2) (some (encode i)) k v) where
  pc := .fault

theorem Touches.setReg (hx : writesReg i x = true) : Touches s i (s.setReg x b) where
  reg j hj := by
    have hne : j ≠ x := by rintro rfl; simp [hx] at hj
    rw [State.setReg_reg, if_neg hne]

theorem Touches.setRegFlag (hx : writesReg i x = true) (hflag : writesReg i flagReg = true) :
    Touches s i (s.setRegFlag x b f) where
  reg j hj := by
    have hne : j ≠ x := by rintro rfl; simp [hx] at hj
    have hneFlag : j ≠ flagReg := by rintro rfl; simp [hflag] at hj
    rw [State.setRegFlag_reg, if_neg hneFlag, if_neg hne]

theorem Touches.skipIf (c : Bool) : Touches s i (s.skipIf c) := by
  cases c with
  | false => exact {}
  | true => exact { pc := .skip }

theorem Touches.setSound (b : Byte) : Touches s i (s.setSound b) := by
  rw [State.setSound_eq]
  exact {}

theorem Touches.storeBytes {a : Nat} {bs : List Byte} (h : storeSpan i s = some (a, bs.length)) :
    Touches s i (s.storeBytes a bs) where
  mem := .inr ⟨a, bs, h, rfl⟩

theorem Touches.loadRegs (x : RegIndex) (a : Nat) : Touches s (.ldVxMem x) (s.loadRegs x a) where
  reg j hj := by rw [State.loadRegs_reg, if_neg (of_decide_eq_false hj)]

theorem Touches.drawSprite (x y : RegIndex) (n : Nibble) (vx vy : Byte) (rows : List Byte) :
    Touches s (.drw x y n) (s.drawSprite vx vy rows) where
  reg j hj := by
    have hne : j ≠ flagReg := beq_eq_false_iff_ne.1 hj
    rw [State.drawSprite, State.setFlag_reg, if_neg hne, State.setDisp_reg]

/-! ## Every instruction -/

/-- The instruction answers a next state that it reaches by touching no more than `Touches` says. -/
def AnswersTouching (i : Instr) (s : State) : Prop := ∃ t, exec i s = .next t ∧ Touches s i t

theorem AnswersTouching.of_inRange {base len : Nat} (h : exec i s = s.inRange i base len t) (ht : Touches s i t) :
    AnswersTouching i s := by
  obtain e | ⟨n, e⟩ := State.inRange_cases (s := s) (t := t) (i := i) (base := base) (len := len)
  · exact ⟨t, h.trans e, ht⟩
  · exact ⟨_, h.trans e, .raise ..⟩

theorem exec_answersTouching (i : Instr) (s : State) : AnswersTouching i s := by
  cases i with
  | ret =>
    by_cases h : s.sp.val = 0
    · exact ⟨_, execRet_of_empty h, .raise ..⟩
    · exact ⟨_, execRet_of_pos (by omega), { pc := .entry ⟨s.sp.val - 1, by omega⟩ }⟩
  | call nnn =>
    by_cases h : s.sp.val = 16
    · exact ⟨_, execCall_of_full nnn h, .raise ..⟩
    · exact ⟨_, execCall_of_lt nnn (by omega),
        { pc := .target nnn, stack := .inr ⟨⟨s.sp.val, by omega⟩, rfl⟩ }⟩
  | skp x =>
    by_cases h : 16 ≤ (s.reg x).toNat
    · exact ⟨_, execSkp_of_ge h, .raise ..⟩
    · exact ⟨_, execSkp_of_lt (by omega), .skipIf _⟩
  | sknp x =>
    by_cases h : 16 ≤ (s.reg x).toNat
    · exact ⟨_, execSknp_of_ge h, .raise ..⟩
    · exact ⟨_, execSknp_of_lt (by omega), .skipIf _⟩
  | ldVxK x =>
    cases h : s.firstPressed with
    | some k => exact ⟨_, execLdVxK_of_some h, .setReg (beq_self_eq_true x)⟩
    | none => exact ⟨_, execLdVxK_of_none h, {}⟩
  | drw x y n => exact .of_inRange rfl (.drawSprite ..)
  | ldB x => exact .of_inRange rfl (.storeBytes rfl)
  | ldMemVx x => exact .of_inRange rfl (.storeBytes (by rw [State.regsUpTo_length]; rfl))
  | ldVxMem x => exact .of_inRange rfl (.loadRegs ..)
  | seByte | sneByte | seReg | sneReg => exact ⟨_, rfl, .skipIf _⟩
  | jp nnn => exact ⟨_, rfl, { pc := .target nnn }⟩
  | ldByte x | addByte x | ldReg x | orReg x | andReg x | xorReg x | ldVxDt x =>
    exact ⟨_, rfl, .setReg (beq_self_eq_true x)⟩
  | rnd x kk => exact ⟨_, rfl, { reg := (Touches.setReg (i := .rnd x kk) (beq_self_eq_true x)).reg }⟩
  | addReg x | subReg x | shr x | subnReg x | shl x =>
    exact ⟨_, rfl, .setRegFlag (by simp [writesReg]) (by simp [writesReg])⟩
  | ldStVx x => exact ⟨_, rfl, .setSound _⟩
  | cls | ldI | ldDtVx | addI | ldF => exact ⟨_, rfl, {}⟩

theorem exec_touches (h : exec i s = .next t) : Touches s i t := by
  obtain ⟨u, hu, ht⟩ := exec_answersTouching i s
  cases h.symm.trans hu
  exact ht

end Sys2Proof.Machine

open Sys2Proof Sys2Proof.Machine

/-- Settles O55: the registers of `Touches`. -/
theorem onlyTabledRegistersChange : Obligations.OnlyTabledRegistersChange :=
  fun _ _ _ j h hj => (exec_touches h).reg j hj

/-- Settles O56: an instruction leaves memory or stores to its span, and a store leaves every byte beside it. -/
theorem onlyStoredBytesChange : Obligations.OnlyStoredBytesChange := by
  intro i s t a h houtside
  have ht := exec_touches h
  obtain hmem | ⟨base, bs, hspan, hmem⟩ := ht.mem
  · rw [State.byteAt, State.byteAt, hmem, ht.params]
  · rw [State.byteAt, hmem, ht.params]
    exact Memory.read_writeBytes_outside (houtside base bs.length hspan)
end

section
/-! Steps and faults: a step in each of its kinds (40_step_cycle.md R100-R103), and the fault an instruction or a fetch
raises (R106, 60_exceptions.md R240, R241). -/

namespace Sys2Proof.Machine

variable {s t : State} {i : Instr}

/-! ## One step, kind by kind (R51, R100) -/

theorem step_of_not_running (hp : s.phase ≠ .running) : step s = .next s := by
  rw [step, State.stepKind_idle hp]

theorem step_of_wait {x : RegIndex} (hp : s.phase = .running) (hw : s.wait = some x) :
    step s = .next (s.blockedPoll x) := by
  rw [step, State.stepKind_poll hp hw]

theorem step_of_fetch_out (hp : s.phase = .running) (hw : s.wait = none) (hpc : s.pc.toNat + 1 > 0xFFF) :
    step s = .next (s.raiseFetch (max s.pc.toNat 0x1000)) := by
  rw [step, State.stepKind_fetch hp hw, State.fetchKind_out hpc]

theorem step_of_decode_instr (hp : s.phase = .running) (hw : s.wait = none) (hpc : s.pc.toNat + 1 ≤ 0xFFF)
    (hd : decode s.fetchWord = .instr i) : step s = exec i s.advance := by
  rw [step, State.stepKind_fetch hp hw, State.fetchKind_in hpc, hd, decodedKind]

theorem State.blockedPoll_of_some {x k : RegIndex} (h : s.firstPressed = some k) :
    s.blockedPoll x = (s.setReg x (byteOfKey k)).setWait none := by
  rw [State.blockedPoll, h]

theorem State.blockedPoll_of_none {x : RegIndex} (h : s.firstPressed = none) : s.blockedPoll x = s := by
  rw [State.blockedPoll, h]

theorem State.blockedPoll_frame (x : RegIndex) :
    s.blockedPoll x = { s with v := (s.blockedPoll x).v, wait := (s.blockedPoll x).wait } := by
  obtain e | ⟨k, -, e⟩ := State.blockedPoll_cases (s := s) x <;> rw [e]
  rfl

/-! ## Outcomes -/

theorem exec_exists_next (i : Instr) (s : State) : ∃ t, exec i s = .next t := by
  obtain ⟨t, ht, -⟩ := exec_answersTouching i s
  exact ⟨t, ht⟩

theorem step_exists_next (s : State) : ∃ t, step s = .next t := by
  unfold step
  cases s.stepKind with
  | idle | poll | fetchFault | noOp => exact ⟨_, rfl⟩
  | run i => exact exec_exists_next i _

/-! ## Faults -/

theorem advance_pc_sub (s : State) : s.advance.pc - 2 = s.pc := BitVec.add_sub_cancel ..

/-- An instruction of a step that leaves phase running has raised a fault: the state before the fetch, with a record of
the instruction's address and word. -/
theorem exec_advance_of_not_running (hp : s.phase = .running) (h : exec i s.advance = .next t)
    (ht : t.phase ≠ .running) :
    ∃ k v, k ≠ .loadError ∧ t = s.enterFault s.pc (some (encode i)) k v := by
  obtain ⟨k, v, hk, hx⟩ | ⟨u, hx, hq⟩ := exec_faultOrQuiet i s.advance <;> cases h.symm.trans hx
  · refine ⟨k, v, hk, ?_⟩
    rw [advance_pc_sub]
    rfl
  · exact absurd (hq.phase.trans hp) ht

/-- A step that leaves phase running has raised a fault: of the fetch, or of the instruction fetched. -/
theorem step_of_leaves_running (hp : s.phase = .running) (h : step s = .next t) (ht : t.phase ≠ .running) :
    (s.pc.toNat + 1 > 0xFFF ∧ t = s.enterFault s.pc none .memoryOutOfBounds (max s.pc.toNat 0x1000)) ∨
    (s.pc.toNat + 1 ≤ 0xFFF ∧ ∃ k v, k ≠ .loadError ∧ t = s.enterFault s.pc (some s.fetchWord) k v) := by
  obtain ⟨hidle, -⟩ | ⟨x, -, -, rfl⟩ | ⟨-, -, hpc, rfl⟩ | ⟨-, -, -, -, rfl⟩ | ⟨i, -, -, hpc, hd, hx⟩ := step_cases h
  · exact absurd hp hidle
  · exact absurd ((congrArg State.phase (State.blockedPoll_frame x)).trans hp) ht
  · exact .inl ⟨hpc, rfl⟩
  · exact absurd hp ht
  · rw [← encode_of_decodeInstr hd]
    exact .inr ⟨hpc, exec_advance_of_not_running hp hx ht⟩

end Sys2Proof.Machine

open Sys2Proof Sys2Proof.Machine

/-- Settles O6: the step of a decoded word, with the bytes of the word and the advance of PC written out. -/
theorem stepRunsTheDecodedInstruction : Obligations.StepRunsTheDecodedInstruction :=
  fun _ _ => step_of_decode_instr

/-- Settles O7: the range check of the fetch, and the decoder's two answers. -/
theorem fetchIsBigEndianAndBounded : Obligations.FetchIsBigEndianAndBounded := by
  intro s hp hw
  refine ⟨step_of_fetch_out hp hw, fun hpc => ⟨wordOfBytes_toNat .., ?_⟩⟩
  cases hd : decodeInstr s.fetchWord with
  | some i => exact .inl ⟨i, decode_of_some hd, step_of_decode_instr hp hw hpc (decode_of_some hd)⟩
  | none => exact .inr ⟨decode_of_none hd, _, step_of_decodeInstr_none hp hw hpc hd, rfl⟩

/-- Settles O9: the phase is the first thing a step looks at. -/
theorem stepOutsideRunningHasNoEffect : Obligations.StepOutsideRunningHasNoEffect :=
  fun _ => step_of_not_running

/-- Settles O11: a fault's entry is a next state. -/
theorem everyStepAnswersNext : Obligations.EveryStepAnswersNext :=
  fun s => ⟨step_exists_next s, fun i => exec_exists_next i s⟩

/-- Settles O12: a step leaves phase running only by the fault of the fetch or of the instruction fetched. -/
theorem faultsArePrecise : Obligations.FaultsArePrecise := by
  intro s t hp h ht
  obtain ⟨hpc, rfl⟩ | ⟨hpc, k, v, hk, rfl⟩ := step_of_leaves_running hp h ht
  · exact ⟨_, rfl, nofun, rfl, .inl ⟨hpc, rfl⟩⟩
  · exact ⟨_, rfl, hk, rfl, .inr ⟨hpc, rfl⟩⟩

/-- Settles O13: an instruction raises the fault of its cause, or has none and completes; a completed instruction keeps
FAULT and PHASE. -/
theorem instructionsFaultExactlyAsTabled : Obligations.InstructionsFaultExactlyAsTabled := by
  intro i s
  obtain ⟨k, v, hf, hx⟩ | ⟨hf, t, hx, hc⟩ := exec_faultsOrCompletes i s
  · rw [hf]
    exact ⟨fun _ _ e => by cases e; exact hx, nofun⟩
  · rw [hf]
    exact ⟨nofun, fun _ => ⟨t, hx, by cases hc <;> exact ⟨rfl, rfl⟩⟩⟩
end

section
/-! The environment's operations (10_state.md R50): what a program load (70_reset_and_hazards.md R282), a tick (R260),
an input (R53) and a reset (R280) write, and the tone events of R55. -/

namespace Sys2Proof.Machine

variable {s t : State} {i : Instr} {bytes : List Byte}

/-! ## Program load (R282) -/

theorem State.loadProgram_of_long (hp : s.phase = .ready) (h : bytes.length > 3584) :
    s.loadProgram bytes = { s with
      fault := some ⟨.loadError, 0x200, none, bytes.length⟩, phase := .loadFailed } :=
  (if_pos hp).trans (if_pos h)

theorem State.loadProgram_of_fits (hp : s.phase = .ready) (h : bytes.length ≤ 3584) :
    s.loadProgram bytes = (s.storeBytes 0x200 bytes).setPhase .running :=
  (if_pos hp).trans (if_neg (Nat.not_lt.2 h))

theorem State.loadProgram_of_not_ready (hp : s.phase ≠ .ready) : s.loadProgram bytes = s := if_neg hp

/-- Everything a load can do. -/
theorem State.loadProgram_cases (s : State) (bytes : List Byte) :
    (s.phase = .ready ∧ s.loadProgram bytes = { s with
      fault := some ⟨.loadError, 0x200, none, bytes.length⟩, phase := .loadFailed }) ∨
    (s.phase = .ready ∧ s.loadProgram bytes = (s.storeBytes 0x200 bytes).setPhase .running) ∨
    s.loadProgram bytes = s := by
  by_cases hp : s.phase = .ready
  · by_cases h : bytes.length ≤ 3584
    · exact .inr (.inl ⟨hp, State.loadProgram_of_fits hp h⟩)
    · exact .inl ⟨hp, State.loadProgram_of_long hp (Nat.lt_of_not_le h)⟩
  · exact .inr (.inr (State.loadProgram_of_not_ready hp))

/-- The bytes of a program that fits are read back where they were copied. -/
theorem State.loadProgram_byteAt_inside (hp : s.phase = .ready) (h : bytes.length ≤ 3584) (hm : s.memOk) (k : Nat)
    (hk : k < bytes.length) : (s.loadProgram bytes).byteAt (0x200 + k) = bytes[k] := by
  rw [State.loadProgram_of_fits hp h]
  have hle : 0x200 + k ≤ 0xFFF := by omega
  exact State.storeBytes_byteAt_inside hm k hk hle

theorem State.loadProgram_byteAt_outside (hp : s.phase = .ready) (h : bytes.length ≤ 3584) {a : Nat}
    (ha : a < 0x200 ∨ 0x200 + bytes.length ≤ a) : (s.loadProgram bytes).byteAt a = s.byteAt a := by
  rw [State.loadProgram_of_fits hp h]
  exact State.storeBytes_byteAt_outside ha

/-! ## Tick (R260) -/

/-- A tick takes one from both timers, or, after a fault, does nothing. -/
theorem State.tickTimers_cases (s : State) : s.tickTimers = s.tickBoth ∨ s.tickTimers = s := by
  cases hp : s.phase with
  | ready => exact .inl (State.tickTimers_of_ready_or_running (.inl hp))
  | running => exact .inl (State.tickTimers_of_ready_or_running (.inr hp))
  | halted => exact .inr (State.tickTimers_of_halted_or_loadFailed (.inl hp))
  | loadFailed => exact .inr (State.tickTimers_of_halted_or_loadFailed (.inr hp))

theorem State.tickTimers_frame (s : State) :
    s.tickTimers = { s with dt := s.tickTimers.dt, st := s.tickTimers.st, toneOut := s.tickTimers.toneOut } := by
  obtain h | h := s.tickTimers_cases <;> rw [h]
  rw [State.tickBoth_eq]

theorem State.tickTimers_phase (s : State) : s.tickTimers.phase = s.phase := by
  rw [State.tickTimers_frame]

/-! ## Reset (R280) -/

theorem State.resetOp_byteAt (s : State) (a : Nat) : s.resetOp.byteAt a = resetByte s.params a := Memory.read_nil

theorem Memory.wf_nil {p : Config.Params} : Memory.wf p [] := ⟨List.Pairwise.nil, nofun⟩

theorem State.reset_byteAt_font (j : Fin 80) : State.reset.byteAt (0x050 + j.val) = fontDataReset[j] := by
  have hle : 0x050 + j.val ≤ 0xFFF := by omega
  exact resetByte_font (p := paramsReset) j hle

theorem State.reset_byteAt_other {a : Nat} (h : a < 0x050 ∨ 0x0A0 ≤ a) : State.reset.byteAt a = 0 :=
  resetByte_other (p := paramsReset) h

theorem State.resetOp_reg (s : State) (x : RegIndex) : s.resetOp.reg x = 0 := Vector.getElem_replicate ..

theorem State.resetOp_stack (s : State) (j : RegIndex) : s.resetOp.stack[j] = 0 := Vector.getElem_replicate ..

theorem State.resetOp_pressed (s : State) (k : RegIndex) : s.resetOp.pressed k = false := Vector.getElem_replicate ..

/-! ## What a step leaves -/

theorem exec_key_params (h : exec i s = .next t) : t.key = s.key ∧ t.params = s.params := by
  obtain ⟨k, v, -, hx⟩ | ⟨u, hx, hq⟩ := exec_faultOrQuiet i s <;> cases h.symm.trans hx
  · exact ⟨rfl, rfl⟩
  · exact ⟨hq.key, hq.params⟩

theorem step_key_params (h : step s = .next t) : t.key = s.key ∧ t.params = s.params := by
  obtain ⟨-, rfl⟩ | ⟨x, -, -, rfl⟩ | ⟨-, -, -, rfl⟩ | ⟨-, -, -, -, rfl⟩ | ⟨i, -, -, -, -, hx⟩ := step_cases h
  · exact ⟨rfl, rfl⟩
  · rw [State.blockedPoll_frame]
    exact ⟨rfl, rfl⟩
  · exact ⟨rfl, rfl⟩
  · exact ⟨rfl, rfl⟩
  · exact exec_key_params (s := s.advance) hx

/-! ## Tone events (R55) -/

theorem ticked_eq_zero_iff {b : Byte} (h : b ≠ 1) : ticked b = 0 ↔ b = 0 := by
  have hb := ticked_toNat b
  bv_omega

theorem State.toneOn_congr (h : t.st = s.st) : t.toneOn = s.toneOn := by
  simp only [State.toneOn, State.soundZero, h]

/-- The tone stream has the new value of `tone_on` appended if it changed, else nothing. -/
def ToneMarked (s t : State) : Prop := t.toneOut = s.toneOut ++ if t.toneOn = s.toneOn then [] else [t.toneOn]

theorem ToneMarked.of_same (htone : t.toneOn = s.toneOn) (hout : t.toneOut = s.toneOut) : ToneMarked s t := by
  rw [ToneMarked, if_pos htone, hout, List.append_nil]

theorem ToneMarked.setSound (b : Byte) : ToneMarked s (s.setSound b) := by
  rw [State.setSound_eq]
  rfl

/-- The tone goes off in the tick that finds ST at 1; any other tick leaves it. -/
theorem ToneMarked.tickBoth (s : State) : ToneMarked s s.tickBoth := by
  rw [State.tickBoth_eq]
  by_cases h : s.st = 1
  · simp [ToneMarked, State.toneOn, State.soundZero, ticked, h]
  · refine .of_same (Bool.eq_iff_iff.2 ?_) (by rw [if_neg h, List.append_nil])
    rw [State.toneOn_iff, State.toneOn_iff]
    exact not_congr (ticked_eq_zero_iff h)

theorem ToneMarked.exec (h : exec i s = .next t) : ToneMarked s t := by
  by_cases hi : ∃ x, i = .ldStVx x
  · obtain ⟨x, rfl⟩ := hi
    cases h
    exact .setSound _
  · have hne : ∀ x, i ≠ .ldStVx x := fun x hx => hi ⟨x, hx⟩
    obtain ⟨-, -, -, -, hsame, -⟩ := specialStateChangesOnlyWhereNamed i s t h
    obtain ⟨hst, hout⟩ := hsame hne
    exact .of_same (State.toneOn_congr hst) hout

theorem ToneMarked.step (h : step s = .next t) : ToneMarked s t := by
  obtain ⟨-, rfl⟩ | ⟨x, -, -, rfl⟩ | ⟨-, -, -, rfl⟩ | ⟨-, -, -, -, rfl⟩ | ⟨i, -, -, -, -, hx⟩ := step_cases h
  · exact .of_same rfl rfl
  · rw [State.blockedPoll_frame]
    exact .of_same rfl rfl
  · exact .of_same rfl rfl
  · exact .of_same rfl rfl
  · exact ToneMarked.exec (s := s.advance) hx

theorem ToneMarked.operate {op : Op} (hop : op ≠ .reset) (h : operate op s = .next t) : ToneMarked s t := by
  cases op with
  | reset => exact absurd rfl hop
  | loadProgram bytes =>
    cases h
    obtain ⟨-, e⟩ | ⟨-, e⟩ | e := s.loadProgram_cases bytes <;> rw [e] <;> exact .of_same rfl rfl
  | step => exact .step h
  | tickTimers =>
    cases h
    obtain e | e := s.tickTimers_cases <;> rw [e]
    · exact .tickBoth s
    · exact .of_same rfl rfl
  | setInput v => cases h; exact .of_same rfl rfl

end Sys2Proof.Machine

open Sys2Proof Sys2Proof.Machine

/-- Settles O14: each operation looks at the phase first, but for `set_input`. -/
theorem haltedStateIsFinal : Obligations.HaltedStateIsFinal := by
  intro op s hp hreset
  have hnotRunning : s.phase ≠ .running := by rintro e; simp [e] at hp
  have hnotReady : s.phase ≠ .ready := by rintro e; simp [e] at hp
  cases op with
  | reset => exact absurd rfl hreset
  | loadProgram bytes => exact ⟨nofun, fun _ => congrArg Host.Outcome.next (State.loadProgram_of_not_ready hnotReady)⟩
  | step => exact ⟨nofun, fun _ => step_of_not_running hnotRunning⟩
  | tickTimers => exact ⟨nofun, fun _ => congrArg Host.Outcome.next (State.tickTimers_of_halted_or_loadFailed hp)⟩
  | setInput v => exact ⟨fun _ e => by cases e; rfl, fun hne => absurd rfl (hne v)⟩

/-- Settles O15: of the operations but reset, only the step ends phase running, by a fault. -/
theorem runEndsOnlyByAFault : Obligations.RunEndsOnlyByAFault := by
  intro op s t hp h ht
  cases op with
  | reset => exact .inl rfl
  | loadProgram bytes =>
    cases h
    rw [State.loadProgram_of_not_ready (by simp [hp])] at ht
    exact absurd hp ht
  | step =>
    obtain ⟨-, rfl⟩ | ⟨-, k, v, -, rfl⟩ := step_of_leaves_running hp h ht <;> exact .inr ⟨rfl, rfl, nofun⟩
  | tickTimers => cases h; exact absurd (s.tickTimers_phase.trans hp) ht
  | setInput v => cases h; exact absurd hp ht

/-- Settles O16: the frame of each operation. -/
theorem operationsWriteOnlyTheirState : Obligations.OperationsWriteOnlyTheirState :=
  ⟨fun s => ⟨s.tickTimers, rfl, s.tickTimers_frame⟩, fun _ _ => rfl,
    fun _ _ hp => congrArg Host.Outcome.next (State.loadProgram_of_not_ready hp), fun _ _ => step_key_params⟩

/-- Settles O18: the state after is `s.setKey v`. -/
theorem setInputReplacesTheKeys : Obligations.SetInputReplacesTheKeys :=
  fun s v => ⟨s.setKey v, rfl, fun _ => rfl, rfl⟩

/-- Settles O19: the state after is `s.resetOp`, whose memory lists no cell. -/
theorem resetPutsEveryElement : Obligations.ResetPutsEveryElement := by
  intro s
  refine ⟨s.resetOp, rfl, s.resetOp_reg, rfl, rfl, rfl, s.resetOp_stack, rfl, rfl, fun j hj => ?_, fun a ha => ?_,
    Display.off_cell, s.resetOp_pressed, rfl, rfl, rfl, rfl, rfl, rfl, rfl, rfl, rfl, rfl⟩
  · exact (s.resetOp_byteAt _).trans (resetByte_font j hj)
  · exact (s.resetOp_byteAt a).trans (resetByte_other ha)

/-- Settles O20: a load that fits stores its bytes at 0x200. -/
theorem loadProgramCopiesOrFails : Obligations.LoadProgramCopiesOrFails := by
  intro s bytes
  refine ⟨fun hp h => congrArg Host.Outcome.next (State.loadProgram_of_long hp h), fun hp h hm => ?_,
    fun hp => congrArg Host.Outcome.next (State.loadProgram_of_not_ready hp)⟩
  refine ⟨_, rfl, State.loadProgram_byteAt_inside hp h hm, fun a => State.loadProgram_byteAt_outside hp h, ?_⟩
  rw [State.loadProgram_of_fits hp h]
  rfl

/-- Settles O21: the reset state is in phase ready with an empty memory list, and a load that fits changes memory from
0x200 on and PHASE. -/
theorem stateAfterLoad : Obligations.StateAfterLoad := by
  intro bytes h
  refine ⟨_, congrArg Host.Outcome.next (State.loadProgram_of_fits rfl h), rfl, rfl, rfl, State.reset.resetOp_reg, rfl,
    rfl, Display.off_cell, rfl, rfl, rfl, fun j => ?_, fun k hk => ?_, fun a ha => ?_⟩ <;>
    rw [← State.loadProgram_of_fits rfl h]
  · rw [State.loadProgram_byteAt_outside rfl h (by omega), State.reset_byteAt_font]
  · exact State.loadProgram_byteAt_inside rfl h Memory.wf_nil k hk
  · rw [State.loadProgram_byteAt_outside rfl h (by omega), State.reset_byteAt_other (by omega)]

/-- Settles O22: FX18 and the tick append the event of a change, reset appends none, and nothing else writes ST. -/
theorem toneEventsMarkEachChange : Obligations.ToneEventsMarkEachChange :=
  fun op s t h => ⟨fun e => by subst e; cases h; rfl, fun hop => ToneMarked.operate hop h⟩
end

section
/-! The invariant (Safety.lean): reset has it, and a step and every other operation of the environment keep it, so every
reachable state has it (10_state.md R24, R34-R36, 60_exceptions.md R241, R266). -/

namespace Sys2Proof.Machine

variable {s t : State} {i : Instr}

/-! ## PHASE, FAULT, WAIT and PC in agreement, phase by phase -/

theorem State.lifecycleOk_of_ready (hp : s.phase = .ready) :
    s.lifecycleOk = true ↔ s.fault = none ∧ s.wait = none ∧ s.pc = 0x200 := by
  cases hf : s.fault <;> simp [State.lifecycleOk, hp, hf]

theorem State.lifecycleOk_of_running (hp : s.phase = .running) : s.lifecycleOk = true ↔ s.fault = none := by
  cases hf : s.fault <;> simp [State.lifecycleOk, hp, hf]

theorem State.enterFault_lifecycleOk {a : Word} {w : Option Word} {k : Fault} {v : Nat} (hk : k ≠ .loadError)
    (hw : s.wait = none) : (s.enterFault a w k v).lifecycleOk = true := by
  simp [State.lifecycleOk, hk, hw]

/-- While a block runs, agreement is that there is no fault. -/
theorem State.lifecycleOk_of_still_running (hp : s.phase = .running) (hp' : t.phase = .running)
    (hf : t.fault = s.fault) (h : s.lifecycleOk = true) : t.lifecycleOk = true := by
  rw [State.lifecycleOk_of_running hp', hf]
  exact (State.lifecycleOk_of_running hp).1 h

/-- Agreement speaks of PHASE, FAULT, WAIT and PC only. -/
theorem State.lifecycleOk_congr (hp : t.phase = s.phase) (hf : t.fault = s.fault) (hw : t.wait = s.wait)
    (hpc : t.pc = s.pc) : t.lifecycleOk = s.lifecycleOk := by
  simp only [State.lifecycleOk, hp, hf, hw, hpc]

/-- An operation that leaves the parameters, memory, PC, the stack, PHASE, FAULT and WAIT keeps the invariant. -/
theorem State.Inv.congr (hs : s.Inv) (hparams : t.params = s.params) (hmem : t.mem = s.mem) (hpc : t.pc = s.pc)
    (hstack : t.stack = s.stack) (hp : t.phase = s.phase) (hf : t.fault = s.fault) (hw : t.wait = s.wait) : t.Inv := by
  obtain ⟨hm, hPc, hStack, hLife⟩ := hs
  refine ⟨?_, ?_, ?_, ?_⟩
  · rwa [State.memOk, hparams, hmem]
  · rwa [State.pcOk, hpc]
  · rwa [State.stackOk, hstack]
  · rwa [State.lifecycleOk_congr hp hf hw hpc]

/-! ## Reset -/

theorem resetState_inv (p : Config.Params) (n : Nat) (diag : List DiagEvent) (tone : List Bool) :
    ({ State.reset with params := p, rngDraws := n, diagOut := diag, toneOut := tone } : State).Inv := by
  refine ⟨Memory.wf_nil, ?_, ?_, rfl⟩
  · show (0x200 : Word).toNat ≤ 0x1002
    decide
  · intro j
    simp [State.reset]

/-! ## The step -/

theorem PcFrom.toNat_le {a : Word} (h : PcFrom s.advance a) (hpc : s.pc.toNat + 1 ≤ 0xFFF) (hstack : s.stackOk) :
    a.toNat ≤ 0x1002 := by
  cases h with
  | fetch | skip | fault =>
    rw [State.advance_pc]
    bv_omega
  | target nnn =>
    rw [zextAddr_toNat]
    omega
  | entry j => exact (hstack j).trans (by decide)

theorem stackOk_of_touches (ht : Touches s.advance i t) (hpc : s.pc.toNat + 1 ≤ 0xFFF) (hstack : s.stackOk) :
    t.stackOk := by
  intro j
  obtain h | ⟨k, h⟩ := ht.stack
  · rw [h]
    exact hstack j
  · simp only [h, Fin.getElem_fin, Vector.getElem_set, State.advance_pc]
    split
    · bv_omega
    · exact hstack j

theorem memOk_of_touches (ht : Touches s i t) (hmem : s.memOk) : t.memOk := by
  rw [State.memOk, ht.params]
  obtain h | ⟨a, bs, -, h⟩ := ht.mem
  · rwa [h]
  · rw [h]
    exact Memory.writeBytes_wf hmem

/-- A fault of the instruction leaves WAIT none and a record of its own; without one, the run goes on with no fault. -/
theorem lifecycleOk_of_exec (h : exec i s = .next t) (hp : s.phase = .running) (hw : s.wait = none)
    (hlife : s.lifecycleOk = true) : t.lifecycleOk = true := by
  obtain ⟨k, v, hk, hx⟩ | ⟨u, hx, hq⟩ := exec_faultOrQuiet i s <;> cases h.symm.trans hx
  · exact State.enterFault_lifecycleOk hk hw
  · exact State.lifecycleOk_of_still_running hp (hq.phase.trans hp) hq.fault hlife

theorem exec_advance_inv (h : exec i s.advance = .next t) (hp : s.phase = .running) (hw : s.wait = none)
    (hfetch : s.pc.toNat + 1 ≤ 0xFFF) (hs : s.Inv) : t.Inv := by
  obtain ⟨hmem, -, hstack, hlife⟩ := hs
  have ht := exec_touches h
  have hlife' : s.advance.lifecycleOk = true := State.lifecycleOk_of_still_running hp hp rfl hlife
  exact ⟨memOk_of_touches ht hmem, ht.pc.toNat_le hfetch hstack, stackOk_of_touches ht hfetch hstack,
    lifecycleOk_of_exec h hp hw hlife'⟩

theorem State.raiseFetch_inv (n : Nat) (hw : s.wait = none) (hs : s.Inv) : (s.raiseFetch n).Inv := by
  obtain ⟨hmem, hpc, hstack, -⟩ := hs
  exact ⟨hmem, hpc, hstack, State.enterFault_lifecycleOk (by decide) hw⟩

theorem State.unimplemented_inv (w : Word) (hp : s.phase = .running) (hfetch : s.pc.toNat + 1 ≤ 0xFFF) (hs : s.Inv) :
    (s.unimplemented w).Inv := by
  obtain ⟨hmem, -, hstack, hlife⟩ := hs
  refine ⟨hmem, ?_, hstack, State.lifecycleOk_of_still_running hp hp rfl hlife⟩
  show (s.pc + 2).toNat ≤ 0x1002
  bv_omega

theorem State.blockedPoll_inv (x : RegIndex) (hp : s.phase = .running) (hs : s.Inv) : (s.blockedPoll x).Inv := by
  rw [State.blockedPoll_frame]
  obtain ⟨hmem, hpc, hstack, hlife⟩ := hs
  exact ⟨hmem, hpc, hstack, State.lifecycleOk_of_still_running hp hp rfl hlife⟩

theorem step_inv (hs : s.Inv) (h : step s = .next t) : t.Inv := by
  obtain ⟨-, rfl⟩ | ⟨x, hp, -, rfl⟩ | ⟨-, hw, -, rfl⟩ | ⟨hp, -, hfetch, -, rfl⟩ | ⟨i, hp, hw, hfetch, -, hx⟩ :=
    step_cases h
  · exact hs
  · exact State.blockedPoll_inv x hp hs
  · exact State.raiseFetch_inv _ hw hs
  · exact State.unimplemented_inv _ hp hfetch hs
  · exact exec_advance_inv hx hp hw hfetch hs

/-! ## The other operations -/

theorem State.loadProgram_inv (bytes : List Byte) (hs : s.Inv) : (s.loadProgram bytes).Inv := by
  obtain ⟨hp, e⟩ | ⟨hp, e⟩ | e := s.loadProgram_cases bytes <;> rw [e]
  · obtain ⟨hmem, hpc, hstack, hlife⟩ := hs
    obtain ⟨-, hw, h200⟩ := (State.lifecycleOk_of_ready hp).1 hlife
    exact ⟨hmem, hpc, hstack, by simp [State.lifecycleOk, hw, h200]⟩
  · obtain ⟨hmem, hpc, hstack, hlife⟩ := hs
    obtain ⟨hf, -, -⟩ := (State.lifecycleOk_of_ready hp).1 hlife
    exact ⟨Memory.writeBytes_wf hmem, hpc, hstack, (State.lifecycleOk_of_running rfl).2 hf⟩
  · exact hs

theorem State.tickTimers_inv (hs : s.Inv) : s.tickTimers.Inv := by
  rw [State.tickTimers_frame]
  exact hs.congr rfl rfl rfl rfl rfl rfl rfl

theorem operate_inv {op : Op} (hs : s.Inv) (h : operate op s = .next t) : t.Inv := by
  cases op with
  | reset => cases h; exact resetState_inv ..
  | loadProgram bytes => cases h; exact State.loadProgram_inv bytes hs
  | step => exact step_inv hs h
  | tickTimers => cases h; exact State.tickTimers_inv hs
  | setInput v => cases h; exact hs.congr rfl rfl rfl rfl rfl rfl rfl

/-! ## The parameters -/

theorem State.loadProgram_params (bytes : List Byte) : (s.loadProgram bytes).params = s.params := by
  obtain ⟨-, e⟩ | ⟨-, e⟩ | e := s.loadProgram_cases bytes <;> rw [e]
  rfl

theorem State.tickTimers_params : s.tickTimers.params = s.params := by
  rw [State.tickTimers_frame]

theorem operate_params {op : Op} (h : operate op s = .next t) : t.params = s.params := by
  cases op with
  | reset => cases h; rfl
  | loadProgram bytes => cases h; exact State.loadProgram_params bytes
  | step => exact (step_key_params h).2
  | tickTimers => cases h; exact State.tickTimers_params
  | setInput v => cases h; rfl

theorem reachable_inv_params {p : Config.Params} (h : Reachable p s) : s.Inv ∧ s.params = p := by
  induction h with
  | construct draws => exact ⟨resetState_inv p draws [] [], rfl⟩
  | operate op _ hop ih =>
    obtain ⟨hinv, hparams⟩ := ih
    exact ⟨operate_inv hinv hop, (operate_params hop).trans hparams⟩

end Sys2Proof.Machine

open Sys2Proof Sys2Proof.Machine

/-- Settles O23: a step that faults leaves a record of its own, and any other leaves PC where the fetch, a skip, a jump,
a call or a return may put it. -/
theorem stepKeepsTheInvariant : Obligations.StepKeepsTheInvariant :=
  fun _ _ => step_inv

/-- Settles O24: by the step's lemma, and a load stores bytes in canonical form from a state without a fault. -/
theorem everyOperationKeepsTheInvariant : Obligations.EveryOperationKeepsTheInvariant :=
  fun _ _ _ => operate_inv

/-- Settles O25: the reset state lists no memory cell, and its stack is 0 throughout. -/
theorem resetHasTheInvariant : Obligations.ResetHasTheInvariant :=
  ⟨resetState_inv paramsReset 0 [] [], fun p n => resetState_inv p n [] []⟩

/-- Settles O26, by induction on the operations that reach the state. -/
theorem reachableStatesHaveTheInvariant : Obligations.ReachableStatesHaveTheInvariant :=
  fun _ _ => reachable_inv_params
end

section
/-! What cannot be observed: a step does not look at the stack entries at and above SP (10_state.md R27, the
spec's decision D24), nor at the events already emitted (60_exceptions.md R246, 10_state.md R55). One lemma says both: it runs
a step on the same state with another stack and other events emitted before. -/

namespace Sys2Proof.Machine

variable {s t u : State} {i : Instr} {e : Vector Word 16} {d : List DiagEvent} {o : List Bool}

/-- The same state with the stack `e`, and with the events `d` and `o` emitted before those of `s`. -/
def State.veil (e : Vector Word 16) (d : List DiagEvent) (o : List Bool) (s : State) : State :=
  (s.setStack e).setStreams (d ++ s.diagOut) (o ++ s.toneOut)

/-! ## The operations on a veiled state -/

theorem State.veil_emitTone (on : Bool) : (s.veil e d o).emitTone on = (s.emitTone on).veil e d o := by
  simp [State.emitTone, State.veil, State.setStreams, State.setStack]

theorem State.veil_unimplemented (w : Word) : (s.veil e d o).unimplemented w = (s.unimplemented w).veil e d o := by
  simp [State.unimplemented, State.emitDiag, State.veil, State.setStreams, State.setStack, State.advance, State.setPc]

theorem State.veil_skipIf (c : Bool) : (s.veil e d o).skipIf c = (s.skipIf c).veil e d o := by cases c <;> rfl

theorem State.veil_setSound (b : Byte) : (s.veil e d o).setSound b = (s.setSound b).veil e d o := by
  by_cases h : (s.setSt b).toneOn = s.toneOn
  · rw [State.setSound, State.setSound, if_pos h]
    exact if_pos h
  · rw [State.setSound, State.setSound, if_neg h]
    exact (if_neg h).trans (State.veil_emitTone (s := s.setSt b) _)

theorem State.veil_blockedPoll (x : RegIndex) : (s.veil e d o).blockedPoll x = (s.blockedPoll x).veil e d o := by
  cases h : s.firstPressed with
  | some k =>
    rw [State.blockedPoll_of_some h]
    exact State.blockedPoll_of_some h
  | none =>
    rw [State.blockedPoll_of_none h]
    exact State.blockedPoll_of_none h

theorem State.veil_inRange {base len : Nat} (h : s.inRange i base len u = .next t) :
    (s.veil e d o).inRange i base len (u.veil e d o) = .next (t.veil e d o) := by
  cases hr : checkRange base len with
  | none =>
    cases (State.inRange_of_none hr).symm.trans h
    exact State.inRange_of_none hr
  | some n =>
    cases (State.inRange_of_some hr).symm.trans h
    exact State.inRange_of_some hr

/-! ## An instruction on a veiled state -/

/-- An instruction other than a call and a return does not look behind the veil. -/
theorem exec_veil_of_ne (hcall : ∀ nnn, i ≠ .call nnn) (hret : i ≠ .ret) (h : exec i s = .next t) :
    exec i (s.veil e d o) = .next (t.veil e d o) := by
  cases i with
  | ret => exact absurd rfl hret
  | call nnn => exact absurd rfl (hcall nnn)
  | skp x =>
    by_cases hx : 16 ≤ (s.reg x).toNat
    · cases (execSkp_of_ge hx).symm.trans h
      exact execSkp_of_ge (s := s.veil e d o) hx
    · cases (execSkp_of_lt (Nat.lt_of_not_le hx)).symm.trans h
      rw [← State.veil_skipIf]
      exact execSkp_of_lt (s := s.veil e d o) (Nat.lt_of_not_le hx)
  | sknp x =>
    by_cases hx : 16 ≤ (s.reg x).toNat
    · cases (execSknp_of_ge hx).symm.trans h
      exact execSknp_of_ge (s := s.veil e d o) hx
    · cases (execSknp_of_lt (Nat.lt_of_not_le hx)).symm.trans h
      rw [← State.veil_skipIf]
      exact execSknp_of_lt (s := s.veil e d o) (Nat.lt_of_not_le hx)
  | ldVxK x =>
    cases hk : s.firstPressed with
    | some k =>
      cases (execLdVxK_of_some hk).symm.trans h
      exact execLdVxK_of_some (s := s.veil e d o) hk
    | none =>
      cases (execLdVxK_of_none hk).symm.trans h
      exact execLdVxK_of_none (s := s.veil e d o) hk
  | drw | ldB | ldMemVx | ldVxMem => exact State.veil_inRange h
  | seByte | sneByte | seReg | sneReg =>
    cases h
    exact congrArg Host.Outcome.next (State.veil_skipIf _)
  | ldStVx x =>
    cases h
    exact congrArg Host.Outcome.next (State.veil_setSound _)
  | cls | jp | ldByte | addByte | ldReg | orReg | andReg | xorReg | addReg | subReg | shr | subnReg | shl | ldI | rnd
  | ldVxDt | ldDtVx | addI | ldF =>
    cases h
    rfl

/-- The stack `e` holds the entries in use, those below SP. -/
def SameInUse (e : Vector Word 16) (s : State) : Prop := ∀ j : RegIndex, j.val < s.sp.val → e[j] = s.stack[j]

/-- Run from the veiled state, the outcome is `t` veiled, by a stack that agrees with that of `t` below SP, and
everywhere if `e` was the stack of `s`. -/
def AnswersVeiled (e : Vector Word 16) (d : List DiagEvent) (o : List Bool) (s t : State)
    (out : Host.Outcome State Fault Refusal) : Prop :=
  ∃ u, out = .next (t.veil u d o) ∧ SameInUse u t ∧ (e = s.stack → u = t.stack)

/-- A run that leaves SP and the stack leaves the veil. -/
theorem AnswersVeiled.of_same {out : Host.Outcome State Fault Refusal} (he : SameInUse e s) (hsp : t.sp = s.sp)
    (hstack : t.stack = s.stack) (h : out = .next (t.veil e d o)) : AnswersVeiled e d o s t out := by
  refine ⟨e, h, ?_, ?_⟩
  · rwa [SameInUse, hsp, hstack]
  · rw [hstack]; exact id

/-- A return reads the entry below SP, which is in use. -/
theorem execRet_veil (he : SameInUse e s) (h : execRet s = .next t) :
    AnswersVeiled e d o s t (execRet (s.veil e d o)) := by
  by_cases hsp : s.sp.val = 0
  · cases (execRet_of_empty hsp).symm.trans h
    exact .of_same he rfl rfl (execRet_of_empty (s := s.veil e d o) hsp)
  · have hpos : 0 < s.sp.val := Nat.pos_of_ne_zero hsp
    cases (execRet_of_pos hpos).symm.trans h
    refine ⟨e, ?_, fun j hj => he j (Nat.lt_of_lt_of_le hj (Nat.sub_le ..)), id⟩
    have htop : e[s.sp.val - 1] = s.stack[s.sp.val - 1] := he ⟨s.sp.val - 1, by omega⟩ (Nat.sub_lt hpos Nat.one_pos)
    rw [← htop]
    exact execRet_of_pos (s := s.veil e d o) hpos

/-- A call overwrites the entry at SP, the first that was not in use. -/
theorem execCall_veil (nnn : Addr) (he : SameInUse e s) (h : execCall nnn s = .next t) :
    AnswersVeiled e d o s t (execCall nnn (s.veil e d o)) := by
  by_cases hsp : s.sp.val = 16
  · cases (execCall_of_full nnn hsp).symm.trans h
    exact .of_same he rfl rfl (execCall_of_full (s := s.veil e d o) nnn hsp)
  · have hlt : s.sp.val < 16 := by omega
    cases (execCall_of_lt nnn hlt).symm.trans h
    refine ⟨e.set s.sp.val s.pc, execCall_of_lt (s := s.veil e d o) nnn hlt, fun j hj => ?_, fun h => by rw [h]; rfl⟩
    have hle : j.val < s.sp.val + 1 := hj
    by_cases hj' : j.val = s.sp.val
    · simp [hj']
    · have hne : s.sp.val ≠ j.val := fun e => hj' e.symm
      simpa [Vector.getElem_set_ne, hne] using he j (by omega)

theorem exec_veil (he : SameInUse e s) (h : exec i s = .next t) : AnswersVeiled e d o s t (exec i (s.veil e d o)) := by
  by_cases hret : i = .ret
  · subst hret
    exact execRet_veil he h
  by_cases hcall : ∃ nnn, i = .call nnn
  · obtain ⟨nnn, rfl⟩ := hcall
    exact execCall_veil nnn he h
  have hcall' : ∀ nnn, i ≠ .call nnn := fun nnn hi => hcall ⟨nnn, hi⟩
  obtain ⟨-, hsp, hstack, -⟩ := specialStateChangesOnlyWhereNamed i s t h
  exact .of_same he (hsp fun nnn => ⟨hcall' nnn, hret⟩) (hstack hcall') (exec_veil_of_ne hcall' hret h)

/-! ## A step on a veiled state -/

theorem State.veil_stepKind : (s.veil e d o).stepKind = s.stepKind := rfl

theorem step_veil (he : SameInUse e s) (h : step s = .next t) : AnswersVeiled e d o s t (step (s.veil e d o)) := by
  unfold step at h ⊢
  rw [State.veil_stepKind]
  generalize s.stepKind = kind at h ⊢
  cases kind with
  | idle =>
    cases h
    exact .of_same he rfl rfl rfl
  | poll x =>
    cases h
    have hsp : (s.blockedPoll x).sp = s.sp := by rw [State.blockedPoll_frame]
    have hstack : (s.blockedPoll x).stack = s.stack := by rw [State.blockedPoll_frame]
    exact .of_same he hsp hstack (congrArg Host.Outcome.next (State.veil_blockedPoll x))
  | fetchFault a =>
    cases h
    exact .of_same he rfl rfl rfl
  | noOp w =>
    cases h
    exact .of_same he rfl rfl (congrArg Host.Outcome.next (State.veil_unimplemented w))
  | run i => exact exec_veil (s := s.advance) he h

end Sys2Proof.Machine

open Sys2Proof Sys2Proof.Machine

/-- Settles O58: the veil without earlier events is another stack. -/
theorem stackAboveSpIsUnobservable : Obligations.StackAboveSpIsUnobservable := by
  intro s t entries he h
  obtain ⟨u, hu, hsame, -⟩ := step_veil (d := []) (o := []) he h
  exact ⟨u, hu, hsame⟩

/-- Settles O59: the veil with the state's own stack is earlier events. -/
theorem outputStreamsAreNotRead : Obligations.OutputStreamsAreNotRead := by
  intro s
  obtain ⟨t, ht⟩ := step_exists_next (s.setStreams [] [])
  obtain ⟨u, hu, -, hstack⟩ :=
    step_veil (s := s.setStreams [] []) (e := s.stack) (d := s.diagOut) (o := s.toneOut) (fun _ _ => rfl) ht
  have hs : (s.setStreams [] []).veil s.stack s.diagOut s.toneOut = s := by
    simp [State.veil, State.setStack, State.setStreams]
  rw [hs, hstack rfl] at hu
  exact ⟨t, ht, hu⟩
end

section
/-! Memory instructions: FX33 and FX55 store from I upward and FX65 loads from there (44_index_memory.md R194-R197),
what they store is what a later fetch reads (20_memory.md R71), and FX1E and FX29 write I (R191, R192). -/

namespace Sys2Proof.Machine

variable {s t : State} {x j : RegIndex}

@[simp] theorem zextByte_toNat (b : Byte) : (zextByte b).toNat = b.toNat :=
  BitVec.toNat_setWidth_of_le (by decide)

/-- FONT_BASE has 12 bits and a byte 8, so the address needs no wrap. -/
theorem glyphAddr_toNat (a : Addr) (b : Byte) : (glyphAddr a b).toNat = a.toNat + 5 * b.toNat := by
  have hlt : a.toNat + 5 * b.toNat < 2 ^ 16 := by have := a.isLt; have := b.isLt; omega
  exact Nat.mod_eq_of_lt hlt

/-! ## In range (R65) -/

theorem execLdB_of_in_range (h : s.i.toNat + 2 ≤ 0xFFF) :
    exec (.ldB x) s = .next (s.storeBytes s.i.toNat (bcdDigits (s.reg x))) :=
  State.inRange_of_none (checkRange_eq_none.2 fun _ => h)

theorem execLdMemVx_of_in_range (h : s.i.toNat + x.val ≤ 0xFFF) :
    exec (.ldMemVx x) s = .next (s.storeBytes s.i.toNat (s.regsUpTo x)) :=
  State.inRange_of_none (checkRange_eq_none.2 fun _ => h)

theorem execLdVxMem_of_in_range (h : s.i.toNat + x.val ≤ 0xFFF) :
    exec (.ldVxMem x) s = .next (s.loadRegs x s.i.toNat) :=
  State.inRange_of_none (checkRange_eq_none.2 fun _ => h)

/-- The digits are in their places from I, the hundreds lowest (R194). -/
theorem State.storeBytes_bcdDigits_byteAt (hm : s.memOk) (h : s.i.toNat + 2 ≤ 0xFFF) (b : Byte) (k : Nat) (hk : k < 3) :
    (s.storeBytes s.i.toNat (bcdDigits b)).byteAt (s.i.toNat + k) = (bcdDigits b)[k]'hk := by
  have hle : s.i.toNat + k ≤ 0xFFF := by omega
  exact State.storeBytes_byteAt_inside (bs := bcdDigits b) hm k hk hle

/-- Each register up to V[x] is in its place from I (R195). -/
theorem execLdMemVx_byteAt (hm : s.memOk) (h : s.i.toNat + x.val ≤ 0xFFF) (ht : exec (.ldMemVx x) s = .next t)
    (hj : j ≤ x) : t.byteAt (s.i.toNat + j.val) = s.reg j := by
  cases (execLdMemVx_of_in_range h).symm.trans ht
  have hjx : j.val ≤ x.val := hj
  have hlen : j.val < (s.regsUpTo x).length := by rw [State.regsUpTo_length]; omega
  have hle : s.i.toNat + j.val ≤ 0xFFF := by omega
  rw [State.storeBytes_byteAt_inside hm j.val hlen hle, State.regsUpTo_getElem]

end Sys2Proof.Machine

open Sys2Proof Sys2Proof.Machine

/-- Settles O43: the state after FX1E is `s.setI (s.i + zextByte (s.reg x))`. -/
theorem addIWrapsWithoutFlag : Obligations.AddIWrapsWithoutFlag := by
  refine fun s x => ⟨_, rfl, ?_, rfl⟩
  rw [State.setI_i, BitVec.toNat_add, zextByte_toNat]

/-- Settles O44: the glyph's address fits in I whatever V[x] is. -/
theorem ldFPointsAtTheGlyph : Obligations.LdFPointsAtTheGlyph :=
  ⟨rfl, fun _ _ => ⟨_, rfl, glyphAddr_toNat .., rfl⟩⟩

/-- Settles O45: the digits are the three bytes stored, or the range check raises the fault of the table. -/
theorem ldBStoresTheDigits : Obligations.LdBStoresTheDigits := by
  refine fun s x => ⟨fun hm h => ?_, fun h => (instructionsFaultExactlyAsTabled (.ldB x) s).1 _ _ (if_pos h)⟩
  have hbyte := State.storeBytes_bcdDigits_byteAt hm h (s.reg x)
  have hlt := (s.reg x).isLt
  refine ⟨_, execLdB_of_in_range h, ?_, ?_, ?_, fun _ ha => State.storeBytes_byteAt_outside ha, rfl⟩
  · exact (congrArg BitVec.toNat (hbyte 0 (by decide))).trans (Nat.mod_eq_of_lt (by omega))
  · exact (congrArg BitVec.toNat (hbyte 1 (by decide))).trans (Nat.mod_eq_of_lt (by omega))
  · exact (congrArg BitVec.toNat (hbyte 2 (by decide))).trans (Nat.mod_eq_of_lt (by omega))

/-- Settles O46: the registers are the bytes stored, or the range check raises the fault of the table. -/
theorem registerDumpStoresV0ToVx : Obligations.RegisterDumpStoresV0ToVx := by
  refine fun s x => ⟨fun hm h => ?_, fun h => (instructionsFaultExactlyAsTabled (.ldMemVx x) s).1 _ _ (if_pos h)⟩
  have hx := execLdMemVx_of_in_range h
  refine ⟨_, hx, fun j hj => execLdMemVx_byteAt hm h hx hj, fun a ha => State.storeBytes_byteAt_outside ?_, rfl⟩
  rw [State.regsUpTo_length]
  omega

/-- Settles O47: the load writes the registers up to V[x] only, or the range check raises the fault of the table. -/
theorem registerLoadReadsV0ToVx : Obligations.RegisterLoadReadsV0ToVx := by
  refine fun s x => ⟨fun h => ?_, fun h => (instructionsFaultExactlyAsTabled (.ldVxMem x) s).1 _ _ (if_pos h)⟩
  refine ⟨_, execLdVxMem_of_in_range h, fun j hj => ?_, fun j hj => ?_, rfl⟩
  · rw [State.loadRegs_reg, if_pos hj]
  · rw [State.loadRegs_reg, if_neg (not_le.2 hj)]

/-- Settles O48: the load reads the bytes the dump stored, since I and memory are as the dump left them. -/
theorem dumpThenLoadRestoresTheRegisters : Obligations.DumpThenLoadRestoresTheRegisters := by
  intro s t u x hm h ht hmem hparams hi
  have hti : t.i = s.i := by
    cases (execLdMemVx_of_in_range h).symm.trans ht
    rfl
  have hui : u.i = s.i := hi.trans hti
  refine ⟨_, execLdVxMem_of_in_range (by rwa [hui]), fun j hj => ?_⟩
  have hbyte : u.byteAt (s.i.toNat + j.val) = t.byteAt (s.i.toNat + j.val) := by
    rw [State.byteAt, hmem, hparams, State.byteAt]
  rw [State.loadRegs_reg, if_pos hj, hui, hbyte, execLdMemVx_byteAt hm h ht hj]

/-- Settles O49: the two bytes fetched are two consecutive bytes of the dump. -/
theorem fetchSeesStoredBytes : Obligations.FetchSeesStoredBytes := by
  intro s t x j k a hm h ht hk hjk ha
  have hkx : k.val ≤ x.val := hk
  have hj : j ≤ x := Fin.le_def.2 (by omega)
  show wordOfBytes (t.byteAt a.toNat) (t.byteAt (a.toNat + 1)) = _
  rw [ha, execLdMemVx_byteAt hm h ht hj, Nat.add_assoc, ← hjk, execLdMemVx_byteAt hm h ht hk]
end

section
/-! Input and the random byte: FX0A and the blocked poll take the smallest pressed key (46_input.md R220-R222), EX9E and
EXA1 test one key (R215-R217), and CXNN masks a draw (45_random.md R211). -/

namespace Sys2Proof.Machine

variable {s : State} {x k : RegIndex}

theorem byteOfKey_toNat (k : RegIndex) : (byteOfKey k).toNat = k.val :=
  Nat.mod_eq_of_lt (k.isLt.trans (by decide))

theorem execSkp_of_key (h : (s.reg x).toNat = k.val) : exec (.skp x) s = .next (s.skipIf (s.pressed k)) := by
  have hlt : (s.reg x).toNat < 16 := h ▸ k.isLt
  obtain rfl : ⟨(s.reg x).toNat, hlt⟩ = k := Fin.ext h
  exact execSkp_of_lt hlt

theorem execSknp_of_key (h : (s.reg x).toNat = k.val) : exec (.sknp x) s = .next (s.skipIf (!s.pressed k)) := by
  have hlt : (s.reg x).toNat < 16 := h ▸ k.isLt
  obtain rfl : ⟨(s.reg x).toNat, hlt⟩ = k := Fin.ext h
  exact execSknp_of_lt hlt

end Sys2Proof.Machine

open Sys2Proof Sys2Proof.Machine

/-- Settles O10: the poll takes the smallest pressed key and clears WAIT, or does nothing. -/
theorem blockedStepPollsTheKeys : Obligations.BlockedStepPollsTheKeys := by
  intro s x hp hw
  rw [step_of_wait hp hw]
  refine ⟨fun k hk hleast => ?_, fun hnone => ?_⟩
  · rw [State.blockedPoll_of_some (State.firstPressed_eq_some.2 ⟨hk, hleast⟩)]
    refine ⟨_, rfl, ?_, fun j hj => ?_, rfl⟩
    · rw [State.setWait_reg, State.setReg_reg, if_pos rfl, byteOfKey_toNat]
    · rw [State.setWait_reg, State.setReg_reg, if_neg hj]
  · rw [State.blockedPoll_of_none (State.firstPressed_eq_none.2 hnone)]

/-- Settles O52: FX0A writes the smallest pressed key into one register, or sets WAIT. -/
theorem waitForKeyResolvesOrBlocks : Obligations.WaitForKeyResolvesOrBlocks := by
  refine fun s x => ⟨fun k hk hleast => ?_, fun hnone => execLdVxK_of_none (State.firstPressed_eq_none.2 hnone)⟩
  exact exists_next_of_setReg (p := (·.toNat = k.val))
    (execLdVxK_of_some (State.firstPressed_eq_some.2 ⟨hk, hleast⟩)) (byteOfKey_toNat k)

/-- Settles O51: a skip on the key that V[x] names, or the fault of the table. -/
theorem skipsOnAKey : Obligations.SkipsOnAKey := by
  refine fun s x => ⟨fun k hk => ⟨?_, ?_⟩, fun h => ⟨?_, ?_⟩⟩
  · exact exists_next_of_skipIf (execSkp_of_key hk) id id
  · exact exists_next_of_skipIf (execSknp_of_key hk) (congrArg not) (congrArg not)
  · exact (instructionsFaultExactlyAsTabled (.skp x) s).1 _ _ (if_pos h)
  · exact (instructionsFaultExactlyAsTabled (.sknp x) s).1 _ _ (if_pos h)

/-- Settles O50: the state after CXNN is `rndWith s.randomByte x kk s`, one register and the count of draws. -/
theorem rndMasksTheDraw : Obligations.RndMasksTheDraw := by
  intro s x kk
  have hx : (rndWith s.randomByte x kk s).reg x = s.randomByte &&& kk := by
    rw [rndWith, State.countDraw_reg, State.setReg_reg, if_pos rfl]
  refine ⟨_, rfl, hx, rfl, fun hkk => ?_, fun j hj => ?_, rfl⟩
  · rw [hx, hkk]
    exact BitVec.and_zero
  · rw [rndWith, State.countDraw_reg, State.setReg_reg, if_neg hj]
end

section
/-! Calls and returns: 00EE pops the entry below SP (42_control_flow.md R140), 2NNN pushes PC (R142). -/

open Sys2Proof Sys2Proof.Machine

/-- Settles O29: SP = k + 1 makes entry k the one popped; SP = 0 is the cause of the fault. -/
theorem retPopsTheReturnAddress : Obligations.RetPopsTheReturnAddress := by
  refine fun s => ⟨fun k hk => ?_, fun h => (instructionsFaultExactlyAsTabled .ret s).1 _ _ (if_pos h)⟩
  have htop : s.sp.val - 1 = k.val := by omega
  refine ⟨_, execRet_of_pos (by omega), ?_, htop, rfl⟩
  simp [htop]

/-- Settles O31: SP = k makes entry k the one written; SP = 16 is the cause of the fault. -/
theorem callPushesTheReturnAddress : Obligations.CallPushesTheReturnAddress := by
  refine fun s nnn => ⟨fun k hk => ?_, fun h => (instructionsFaultExactlyAsTabled (.call nnn) s).1 _ _ (if_pos h)⟩
  refine ⟨_, execCall_of_lt nnn (by omega), zextAddr_toNat nnn, congrArg (· + 1) hk, ?_, fun j hj => ?_, rfl⟩
  · simp [hk]
  · have hne : s.sp.val ≠ j.val := fun e => hj (Fin.ext (e.symm.trans hk))
    exact Vector.getElem_set_ne (by omega) j.isLt hne
end

section
/-! The opcode map has no overlap (30_encoding.md R89). -/

namespace Sys2Proof

/-- Two rows of the map whose patterns agree on the bits that both fix are one row. -/
theorem opcodeTable_disjoint : ∀ j k : Fin 33,
    opcodeTable[j].pattern &&& opcodeTable[k].mask = opcodeTable[k].pattern &&& opcodeTable[j].mask → j = k := by
  decide

end Sys2Proof

open Sys2Proof Sys2Proof.Machine

/-- Settles O3: on the bits that both rows fix, both patterns are the word. -/
theorem opcodeRowsAreDisjoint : Obligations.OpcodeRowsAreDisjoint := by
  intro w j k hj hk
  refine opcodeTable_disjoint j k ?_
  rw [← eq_of_beq hj, ← eq_of_beq hk, BitVec.and_assoc, BitVec.and_assoc, BitVec.and_comm opcodeTable[j].mask]
end

section
/-! The sprite: the cells DXYN toggles are those its lit pixels land on under the edge policy (41_display.md
R121-R123). -/

namespace Sys2Proof.Machine

variable {s : State} {x y : RegIndex} {n : Nibble} {c : CellPos}

theorem spriteTarget_eq_some_iff {edge : Config.SpriteEdge} {vx vy : Byte} {r k : Nat} :
    spriteTarget edge (vx.toNat % 64 + k) (vy.toNat % 32 + r) = some c ↔ landsOn edge vx vy r k c := by
  obtain ⟨cx, cy⟩ := c
  cases edge with
  | clip =>
    simp only [spriteTarget, landsOn, Option.dite_none_right_eq_some, Option.some.injEq, Prod.mk.injEq, Fin.ext_iff,
      exists_prop]
    omega
  | wrap =>
    simp only [spriteTarget, landsOn, Option.some.injEq, Prod.mk.injEq, Fin.ext_iff]
    omega

/-- The rows DXYN reads. -/
abbrev State.spriteRows (s : State) (n : Nibble) : List Byte := s.readBytes s.i.toNat n.toNat

theorem spriteRows_length_le : (s.spriteRows n).length ≤ 32 := by
  rw [State.readBytes_length]
  omega

theorem mem_spriteCells_iff :
    c ∈ spriteCells s.params.spriteEdge (s.reg x) (s.reg y) (s.spriteRows n) ↔ spriteLights x y n s c := by
  rw [spriteCells, mem_litCells]
  simp only [State.readBytes_length, State.readBytes_getElem, spriteOrigin, spriteTarget_eq_some_iff, spriteBit,
    spriteLights, exists_prop]

theorem execDrw_of_in_range (h : n.toNat = 0 ∨ s.i.toNat + n.toNat - 1 ≤ 0xFFF) :
    exec (.drw x y n) s = .next (s.drawSprite (s.reg x) (s.reg y) (s.spriteRows n)) :=
  State.inRange_of_none (checkRange_eq_none.2 fun hn => h.resolve_left (Nat.ne_of_gt hn))

end Sys2Proof.Machine

open Sys2Proof Sys2Proof.Machine

/-- Settles O28: drawing XORs each cell with the sprite and leaves the collision in VF, or the range check raises the
fault of the table. -/
theorem drwXorsTheSpriteAndSetsCollision : Obligations.DrwXorsTheSpriteAndSetsCollision := by
  refine fun s x y n => ⟨fun h => ?_,
    fun hn h => (instructionsFaultExactlyAsTabled (.drw x y n) s).1 _ _ (if_pos ⟨hn, h⟩)⟩
  have hcell := fun c => s.drawSprite_cell (c := c) (s.reg x) (s.reg y) (spriteRows_length_le (s := s) (n := n))
  have hreg := fun j => s.drawSprite_reg (s.reg x) (s.reg y) j (spriteRows_length_le (s := s) (n := n))
  refine ⟨_, execDrw_of_in_range h, fun c hc => ?_, fun c hc => ?_, fun hc => ?_, fun hc => ?_, fun j hj => ?_,
    s.drawSprite_frame ..⟩
  · rw [hcell, decide_eq_true (mem_spriteCells_iff.2 hc), Bool.xor_true]
  · rw [hcell, decide_eq_false (mt mem_spriteCells_iff.1 hc), Bool.xor_false]
  · obtain ⟨c, hc, hon⟩ := hc
    rw [hreg, if_pos rfl, List.any_eq_true.2 ⟨c, mem_spriteCells_iff.2 hc, hon⟩]
    rfl
  · rw [hreg, if_pos rfl, List.any_eq_false.2 fun c hmem hon => hc ⟨c, mem_spriteCells_iff.1 hmem, hon⟩]
    rfl
  · rw [hreg, if_neg hj]
end
